-- ==== Sys2Proof/Word.lean ====
section
/-! DEFINITION. The words of the CORE and the four encoded formats (00_scope.md R8, 30_encoding.md R70). -/

namespace Sys2Proof

/-- A 32-bit word: a state register, a word of the block, a constant (00_scope.md R8). -/
abbrev Word := BitVec 32

/-- A byte: 8 bits, the smallest addressable unit (20_memory.md R50). -/
abbrev Byte := BitVec 8

/-- An encoded operation with its format. The format is not part of the bits: each format goes to
another unit, the CMD port (CMD32), the compressor's sequencer (STEP6), the boolean function
evaluator (FSEL2) or the rotator (ROT5) (30_encoding.md R70, R83). -/
inductive Encoding where
  /-- A command word (R72). -/
  | cmd32 (w : BitVec 32)
  /-- A step index `I` (R76). -/
  | step6 (w : BitVec 6)
  /-- A function select `fsel` (R77). -/
  | fsel2 (w : BitVec 2)
  /-- A rotate amount `s` (R78). -/
  | rot5 (w : BitVec 5)
  deriving DecidableEq, Repr

end Sys2Proof
end

