-- ==== Sys2Proof/Config.lean ====
section
/-! DEFINITION. The free values of the machine: what the hidden registers hold after a command
(10_state.md R29, R30, R31: "They have no value between commands"). No constant here has a body, so no
proof can rest on a value. Log entry 4. The first argument of each is State.epoch, the number of the
command boundary, so that two boundaries may leave different values. -/

namespace Sys2Proof.Config

/-- The 32-bit hidden registers and step signals, named for the free value each takes. -/
inductive HiddenWord where
  | a | b | c | d | f | sum | rot
  deriving DecidableEq, Repr

/-- What a 32-bit hidden register holds after a command: free (10_state.md R30). -/
opaque freeWord : Nat → HiddenWord → Word

/-- What the step index `I` holds after a command: free (10_state.md R29). -/
opaque freeIndex : Nat → BitVec 6

/-- What `ENCB[n]` holds after a command: free (10_state.md R31). -/
opaque freeByte : Nat → Fin 4 → Byte

/-- What `ENCN` holds after a command: free (10_state.md R31). -/
opaque freeCount : Nat → BitVec 3

end Sys2Proof.Config
end

