-- ==== Sys2Proof/Syntax.lean ====
section
/-! DEFINITION. The instructions: one constructor per row of spec/opcode_table.json (30_encoding.md R83), and
the lines of the assembler notation (30_encoding.md R80, R81). -/

namespace Sys2Proof

/-- The operations that have an encoding. The three commands are the host's; the steps, the four
functions and the rotation are the sub-units' micro-operations (00_scope.md R17). -/
inductive Instr where
  /-- `INIT`: open a new message (45_commands.md R266). -/
  | init
  /-- `PUTC cp`: append one code point (45_commands.md R268). -/
  | putc (cp : BitVec 21)
  /-- `FINAL`: close the message and produce the digest (45_commands.md R270). -/
  | final
  -- The steps of round 0, function F (43_compress.md R172 to R187).
  | f00 | f01 | f02 | f03 | f04 | f05 | f06 | f07
  | f08 | f09 | f10 | f11 | f12 | f13 | f14 | f15
  -- The steps of round 1, function G (43_compress.md R188 to R203).
  | g16 | g17 | g18 | g19 | g20 | g21 | g22 | g23
  | g24 | g25 | g26 | g27 | g28 | g29 | g30 | g31
  -- The steps of round 2, function H (43_compress.md R204 to R219).
  | h32 | h33 | h34 | h35 | h36 | h37 | h38 | h39
  | h40 | h41 | h42 | h43 | h44 | h45 | h46 | h47
  -- The steps of round 3, function I (43_compress.md R220 to R235).
  | i48 | i49 | i50 | i51 | i52 | i53 | i54 | i55
  | i56 | i57 | i58 | i59 | i60 | i61 | i62 | i63
  -- The boolean function evaluator's selects (42_alu.md R145 to R148).
  | fnF | fnG | fnH | fnI
  /-- `ROTL`: the rotator, by an amount of 0 to 31 (42_alu.md R143). -/
  | rotl (s : BitVec 5)
  deriving DecidableEq, Repr

/-- The operand forms of an assembler `PUTC` (30_encoding.md R80). -/
inductive AsmOperand where
  /-- `U+` and hexadecimal digits, most significant first. -/
  | codePoint (digits : List Nat)
  /-- `0x` and hexadecimal digits, most significant first. -/
  | hexadecimal (digits : List Nat)
  /-- Decimal digits, most significant first. -/
  | decimal (digits : List Nat)
  /-- One character in single quotes, standing for its code point. -/
  | quoted (cp : Nat)
  deriving DecidableEq, Repr

/-- One line of the assembler notation: a command, or a pseudo-instruction over the code points of its
text (30_encoding.md R80, R81). -/
inductive AsmLine where
  | init
  | putc (op : AsmOperand)
  | final
  | puts (text : List Nat)
  | hash (text : List Nat)
  deriving DecidableEq, Repr

end Sys2Proof
end

