-- ==== Sys2Proof/WellFormed.lean ====
section
/-! DEFINITION. What is well formed: an instruction (its operand fits its field, 30_encoding.md R74, R78) and an
assembler line (R80). The checks of a command word stand beside its fields in Sys2Proof/Decode.lean. -/

namespace Sys2Proof

/-- An instruction whose operand its encoding can carry: 21 bits for `PUTC` (30_encoding.md R74), 5 for
`ROTL` (R78). The operand types carry exactly these widths, so every term of Instr passes. -/
def Instr.wellFormed : Instr → Bool
  | .putc cp => cp.toNat ≤ 0x1FFFFF
  | .rotl s => s.toNat ≤ 31
  | .init | .final => true
  | .f00 | .f01 | .f02 | .f03 | .f04 | .f05 | .f06 | .f07 => true
  | .f08 | .f09 | .f10 | .f11 | .f12 | .f13 | .f14 | .f15 => true
  | .g16 | .g17 | .g18 | .g19 | .g20 | .g21 | .g22 | .g23 => true
  | .g24 | .g25 | .g26 | .g27 | .g28 | .g29 | .g30 | .g31 => true
  | .h32 | .h33 | .h34 | .h35 | .h36 | .h37 | .h38 | .h39 => true
  | .h40 | .h41 | .h42 | .h43 | .h44 | .h45 | .h46 | .h47 => true
  | .i48 | .i49 | .i50 | .i51 | .i52 | .i53 | .i54 | .i55 => true
  | .i56 | .i57 | .i58 | .i59 | .i60 | .i61 | .i62 | .i63 => true
  | .fnF | .fnG | .fnH | .fnI => true

/-- The number written by digits of a base, most significant first. -/
def digitsValue (base : Nat) (digits : List Nat) : Nat :=
  digits.foldl (fun n d => base * n + d) 0

/-- The number an assembler operand stands for (30_encoding.md R80). -/
def AsmOperand.value : AsmOperand → Nat
  | .codePoint ds => digitsValue 16 ds
  | .hexadecimal ds => digitsValue 16 ds
  | .decimal ds => digitsValue 10 ds
  | .quoted cp => cp

/-- The spelling of an operand: one digit at least, each below the base, and at most six after `U+`
(30_encoding.md R80). -/
def AsmOperand.spelled : AsmOperand → Bool
  | .codePoint ds => 1 ≤ ds.length && ds.length ≤ 6 && ds.all (· < 16)
  | .hexadecimal ds => 1 ≤ ds.length && ds.all (· < 16)
  | .decimal ds => 1 ≤ ds.length && ds.all (· < 10)
  | .quoted _ => true

/-- An assembler operand the assembler accepts: spelled right and not above `0x1FFFFF`
(30_encoding.md R80). A number that is no scalar value is accepted. -/
def AsmOperand.wellFormed (o : AsmOperand) : Bool :=
  o.spelled && o.value ≤ 0x1FFFFF

/-- An assembler line the assembler accepts (30_encoding.md R80, R81). -/
def AsmLine.wellFormed : AsmLine → Bool
  | .init => true
  | .putc o => o.wellFormed
  | .final => true
  | .puts text => text.all (· ≤ 0x1FFFFF)
  | .hash text => text.all (· ≤ 0x1FFFFF)

end Sys2Proof
end

