-- ==== Sys2Proof/Decode.lean ====
section
/-! DEFINITION. The decoder, total on every word of every format and rejecting by name (30_encoding.md R75 to
R78, R82), and after it the encoder (R73). -/

namespace Sys2Proof

/-- Field `OPC` of a command word (30_encoding.md R72). -/
def commandOpc (w : BitVec 32) : BitVec 8 := w.extractLsb' 24 8

/-- Field `RSV` of a command word (30_encoding.md R72). -/
def commandRsv (w : BitVec 32) : BitVec 3 := w.extractLsb' 21 3

/-- Field `CP` of a command word, taken as an unsigned integer (30_encoding.md R72, R74). -/
def commandCp (w : BitVec 32) : BitVec 21 := w.extractLsb' 0 21

/-- Check 1 of a command word: `OPC` is one of the three codes (30_encoding.md R75). -/
def commandOpcKnown (w : BitVec 32) : Bool :=
  commandOpc w = 0x01#8 || commandOpc w = 0x02#8 || commandOpc w = 0x03#8

/-- Check 2 of a command word: `RSV` is zero (30_encoding.md R75). -/
def commandRsvZero (w : BitVec 32) : Bool := commandRsv w = 0

/-- Check 3 of a command word: the commands without an operand carry none (30_encoding.md R75). -/
def commandOperandFits (w : BitVec 32) : Bool := commandOpc w = 0x02#8 || commandCp w = 0

/-- A command word that is one of the three commands (30_encoding.md R75). -/
def commandWellFormed (w : BitVec 32) : Bool :=
  commandOpcKnown w && commandRsvZero w && commandOperandFits w

/-- Why a command word is no command: the three reserved classes of 30_encoding.md R75. -/
inductive Reject where
  /-- `OPC = 0x00` or `OPC` in `0x04 .. 0xFF`. -/
  | reservedOpcode
  /-- `OPC` in `0x01 .. 0x03` and `RSV != 0`. -/
  | reservedField
  /-- `OPC` in `0x01, 0x03`, `RSV = 0` and `CP != 0`. -/
  | operandNotZero
  deriving DecidableEq, Repr

/-- What the decoder answers. -/
inductive Decoded where
  | instr (i : Instr)
  | reject (why : Reject)
  deriving DecidableEq, Repr

/-- The decode procedure for a command word (30_encoding.md R82), naming the reserved class (R75). The
fields are those of R72; the operand of `PUTC` is assembled by R74. -/
def decodeCommand (w : BitVec 32) : Decoded :=
  if commandOpc w = 0x01#8 ∧ commandRsv w = 0 ∧ commandCp w = 0 then .instr .init
  else if commandOpc w = 0x02#8 ∧ commandRsv w = 0 then .instr (.putc (commandCp w))
  else if commandOpc w = 0x03#8 ∧ commandRsv w = 0 ∧ commandCp w = 0 then .instr .final
  else if commandOpcKnown w = false then .reject .reservedOpcode
  else if commandRsv w ≠ 0 then .reject .reservedField
  else .reject .operandNotZero

/-- The steps of round 0, by position (30_encoding.md R76). -/
def stepsRound0 : List Instr :=
  [.f00, .f01, .f02, .f03, .f04, .f05, .f06, .f07,
   .f08, .f09, .f10, .f11, .f12, .f13, .f14, .f15]

/-- The steps of round 1, by position (30_encoding.md R76). -/
def stepsRound1 : List Instr :=
  [.g16, .g17, .g18, .g19, .g20, .g21, .g22, .g23,
   .g24, .g25, .g26, .g27, .g28, .g29, .g30, .g31]

/-- The steps of round 2, by position (30_encoding.md R76). -/
def stepsRound2 : List Instr :=
  [.h32, .h33, .h34, .h35, .h36, .h37, .h38, .h39,
   .h40, .h41, .h42, .h43, .h44, .h45, .h46, .h47]

/-- The steps of round 3, by position (30_encoding.md R76). -/
def stepsRound3 : List Instr :=
  [.i48, .i49, .i50, .i51, .i52, .i53, .i54, .i55,
   .i56, .i57, .i58, .i59, .i60, .i61, .i62, .i63]

/-- Format STEP6: the step micro-operation the index `I` selects (30_encoding.md R76). All 64 values are
steps. -/
def decodeStep (i : BitVec 6) : Instr :=
  (stepsRound0 ++ stepsRound1 ++ stepsRound2 ++ stepsRound3).getD i.toNat .f00

/-- Format FSEL2: the boolean function a select names (30_encoding.md R77). None is reserved. -/
def decodeSelect (fsel : BitVec 2) : Instr :=
  [Instr.fnF, .fnG, .fnH, .fnI].getD fsel.toNat .fnF

/-- Format ROT5: every amount is the same operation (30_encoding.md R78). -/
def decodeRotate (s : BitVec 5) : Instr :=
  .rotl s

/-- The decoder over all formats. -/
def decode : Encoding → Decoded
  | .cmd32 w => decodeCommand w
  | .step6 i => .instr (decodeStep i)
  | .fsel2 fsel => .instr (decodeSelect fsel)
  | .rot5 s => .instr (decodeRotate s)

/-- The encoder, from the encoding tables of 30_encoding.md R73, R76, R77 and R78. -/
def encode : Instr → Encoding
  | .init => .cmd32 0x01000000#32
  | .putc cp => .cmd32 (0x02000000#32 + cp.setWidth 32)
  | .final => .cmd32 0x03000000#32
  | .f00 => .step6 0b000000#6
  | .f01 => .step6 0b000001#6
  | .f02 => .step6 0b000010#6
  | .f03 => .step6 0b000011#6
  | .f04 => .step6 0b000100#6
  | .f05 => .step6 0b000101#6
  | .f06 => .step6 0b000110#6
  | .f07 => .step6 0b000111#6
  | .f08 => .step6 0b001000#6
  | .f09 => .step6 0b001001#6
  | .f10 => .step6 0b001010#6
  | .f11 => .step6 0b001011#6
  | .f12 => .step6 0b001100#6
  | .f13 => .step6 0b001101#6
  | .f14 => .step6 0b001110#6
  | .f15 => .step6 0b001111#6
  | .g16 => .step6 0b010000#6
  | .g17 => .step6 0b010001#6
  | .g18 => .step6 0b010010#6
  | .g19 => .step6 0b010011#6
  | .g20 => .step6 0b010100#6
  | .g21 => .step6 0b010101#6
  | .g22 => .step6 0b010110#6
  | .g23 => .step6 0b010111#6
  | .g24 => .step6 0b011000#6
  | .g25 => .step6 0b011001#6
  | .g26 => .step6 0b011010#6
  | .g27 => .step6 0b011011#6
  | .g28 => .step6 0b011100#6
  | .g29 => .step6 0b011101#6
  | .g30 => .step6 0b011110#6
  | .g31 => .step6 0b011111#6
  | .h32 => .step6 0b100000#6
  | .h33 => .step6 0b100001#6
  | .h34 => .step6 0b100010#6
  | .h35 => .step6 0b100011#6
  | .h36 => .step6 0b100100#6
  | .h37 => .step6 0b100101#6
  | .h38 => .step6 0b100110#6
  | .h39 => .step6 0b100111#6
  | .h40 => .step6 0b101000#6
  | .h41 => .step6 0b101001#6
  | .h42 => .step6 0b101010#6
  | .h43 => .step6 0b101011#6
  | .h44 => .step6 0b101100#6
  | .h45 => .step6 0b101101#6
  | .h46 => .step6 0b101110#6
  | .h47 => .step6 0b101111#6
  | .i48 => .step6 0b110000#6
  | .i49 => .step6 0b110001#6
  | .i50 => .step6 0b110010#6
  | .i51 => .step6 0b110011#6
  | .i52 => .step6 0b110100#6
  | .i53 => .step6 0b110101#6
  | .i54 => .step6 0b110110#6
  | .i55 => .step6 0b110111#6
  | .i56 => .step6 0b111000#6
  | .i57 => .step6 0b111001#6
  | .i58 => .step6 0b111010#6
  | .i59 => .step6 0b111011#6
  | .i60 => .step6 0b111100#6
  | .i61 => .step6 0b111101#6
  | .i62 => .step6 0b111110#6
  | .i63 => .step6 0b111111#6
  | .fnF => .fsel2 0b00#2
  | .fnG => .fsel2 0b01#2
  | .fnH => .fsel2 0b10#2
  | .fnI => .fsel2 0b11#2
  | .rotl s => .rot5 s

/-- The encoding a row's `nbits` bits `w` stand for (log entry 10). A row of the table has 32 bits (CMD32), 6
(STEP6), 2 (FSEL2) or 5 (ROT5). Counted in whole bytes the last three all have 8, and there the bits are
read as a step index: the spec's own table gives the three formats overlapping bits, since each goes to
another unit. -/
def tableEncoding (nbits w : Nat) : Option Encoding :=
  if nbits = 2 then (if w < 4 then some (.fsel2 (BitVec.ofNat 2 w)) else none)
  else if nbits = 5 then (if w < 32 then some (.rot5 (BitVec.ofNat 5 w)) else none)
  else if nbits ≤ 8 then (if w < 64 then some (.step6 (BitVec.ofNat 6 w)) else none)
  else if w < 2 ^ 32 then some (.cmd32 (BitVec.ofNat 32 w))
  else none

/-- The instruction the decoder reads from a row's bits. -/
def decodeTableWord (nbits w : Nat) : Option Instr :=
  match tableEncoding nbits w with
  | none => none
  | some e =>
    match decode e with
    | .instr i => some i
    | .reject _ => none

end Sys2Proof
end

