-- ==== Sys2Proof/Machine/State.lean ====
section
/-! DEFINITION. The state of the CORE as plain data (10_state.md), the reasons a step can stop, and the state
after reset (10_state.md R35). -/

namespace Sys2Proof.Machine

/-- `STATUS.PHASE`; the encoding 3 is never taken and has no constructor (10_state.md R25; 93 U7). -/
inductive Phase where
  /-- 0: a message is open, `PUTC` and `FINAL` are accepted. -/
  | absorb
  /-- 1: `FINAL` has completed, `HEX` holds the digest. -/
  | done
  /-- 2: a fault was raised, every command is ignored until reset. -/
  | fault
  deriving DecidableEq, Repr

/-- `STATUS.CAUSE`: why the CORE faulted (10_state.md R25; 60_exceptions.md R291). -/
inductive Cause where
  /-- 0: no fault. -/
  | none
  /-- 1: the command word is no command. -/
  | illcmd
  /-- 2: `PUTC` or `FINAL` after the message is closed. -/
  | seq
  /-- 3: the operand of `PUTC` is no scalar value. -/
  | badcp
  deriving DecidableEq, Repr

/-- What the machine is given to do next. The first two come from the host over its ports
(30_encoding.md R71). The others run one micro-operation of a sub-unit on its own, which the hardware
does only inside a command (00_scope.md R17; log entry 2). -/
inductive Event where
  /-- One transfer over the `CMD` port. -/
  | command (w : BitVec 32)
  /-- The `RESET` event. -/
  | reset
  /-- The start of a `COMPRESS`: the working registers and the step index are loaded
  (43_compress.md R161). -/
  | load
  /-- The compressor's sequencer executes the step the index `I` selects (30_encoding.md R76). -/
  | step
  /-- The boolean function evaluator is given a select (30_encoding.md R77). -/
  | select (fsel : BitVec 2)
  /-- The rotator is given an amount (30_encoding.md R78). -/
  | rotate (s : BitVec 5)
  deriving DecidableEq, Repr

/-- The block buffer `X` as a list of (byte address, byte) pairs in one canonical form: addresses strictly
rising and below 64, and no pair whose byte is what an unlisted address reads as
(20_memory.md R50; log entry 9). -/
abbrev Memory := List Host.Cell

/-- The state. Names are the spec's; `hex` is `HEX`, `buf` is `X`. -/
structure State where
  /-- `A`, `B`, `C`, `D`: the chaining state (10_state.md R21). -/
  A : Word
  B : Word
  C : Word
  D : Word
  /-- `X[0..15]`, the block buffer, as bytes (10_state.md R22; 20_memory.md R50). -/
  buf : Memory
  /-- `FILL`: how many bytes of the current block are written (10_state.md R23). -/
  fill : BitVec 6
  /-- `NBYTES`: the message length in bytes modulo 2^61 (10_state.md R24). -/
  nbytes : BitVec 61
  /-- `STATUS.PHASE` (10_state.md R25). -/
  phase : Phase
  /-- `STATUS.CAUSE` (10_state.md R25). -/
  cause : Cause
  /-- `HEX[0..31]`: the digest characters (10_state.md R27). -/
  hex : Vector Byte 32
  /-- `a`, `b`, `c`, `d`: the working registers of one `COMPRESS`, hidden (10_state.md R30). -/
  a : Word
  b : Word
  c : Word
  d : Word
  /-- `I`: the step index, hidden (10_state.md R29). -/
  I : BitVec 6
  /-- `ENCB[0..3]`: the packer's output latch, hidden (10_state.md R31). -/
  encb : Vector Byte 4
  /-- `ENCN`: how many bytes of the latch are taken, hidden (10_state.md R31). -/
  encn : BitVec 3
  /-- The evaluator's result, the `f` of a step (43_compress.md R166; log entries 6, 7). -/
  f : Word
  /-- The four-term sum of a step, the rotator's operand (43_compress.md R166; log entries 6, 7). -/
  sum : Word
  /-- The rotator's result (43_compress.md R166; log entries 6, 7). -/
  rot : Word
  /-- The MODEL's own: how often the hidden registers have been given free values (log entry 4). -/
  epoch : Nat
  /-- The MODEL's own: the events not yet transferred to the CORE, first one first (log entry 1). -/
  pending : List Event
  deriving DecidableEq, Repr

/-- Why the machine would stop with a fault: never. The CORE's three faults are the phase `FAULT`, a next
state that no command leaves (60_exceptions.md R293, R294); nothing else of the CORE raises anything
(R290). The type has no constructor, so no step can stop so. Log entry 11: safe. -/
inductive Fault where
  deriving DecidableEq, Repr

/-- Why a step would give no meaning. -/
inductive Refusal where
  /-- An arm of exec that has no meaning yet. Raised by no arm: every instruction has its meaning. Safe. -/
  | notModelled (mnemonic : String)
  deriving DecidableEq, Repr

/-- The state right after reset (10_state.md R35; 70_reset_and_hazards.md R320). The hidden registers and step
signals have no reset value in the spec and are named zero here (DESIGN CHOICE, log entries 3 and 7), as after
every `RESET` event and every `INIT`; the
model's own fields start at zero and empty (log entries 1 and 4). -/
def State.reset : State where
  A := 0x67452301#32
  B := 0xefcdab89#32
  C := 0x98badcfe#32
  D := 0x10325476#32
  buf := []
  fill := 0
  nbytes := 0
  phase := .absorb
  cause := .none
  hex := Vector.replicate 32 0
  a := 0
  b := 0
  c := 0
  d := 0
  I := 0
  encb := Vector.replicate 4 0
  encn := 0
  f := 0
  sum := 0
  rot := 0
  epoch := 0
  pending := []

end Sys2Proof.Machine
end

