-- ==== Sys2Proof/Machine/Ops.lean ====
section
/-! DEFINITION. The named operations over the block buffer and the registers: reading and writing the buffer
(20_memory.md), opening a message and reset, raising a fault (60_exceptions.md R293), the host's two read
ports, and the end of a command for the hidden registers. -/

namespace Sys2Proof.Machine

/-- What an unlisted byte of the block buffer reads as: the value reset and `INIT` give all of `X`
(10_state.md R35; 45_commands.md R266). -/
def Memory.unlisted : Byte := 0x00#8

/-- The byte at an address. -/
def Memory.read : Memory → Nat → Byte
  | [], _ => Memory.unlisted
  | (b, v) :: m, addr => if addr = b then v else Memory.read m addr

/-- Writes a byte and keeps the canonical form: writing what an unlisted address reads as removes the pair. -/
def Memory.write : Memory → Nat → Byte → Memory
  | [], addr, v => if v = Memory.unlisted then [] else [(addr, v)]
  | (b, w) :: m, addr, v =>
    if addr < b then (if v = Memory.unlisted then (b, w) :: m else (addr, v) :: (b, w) :: m)
    else if addr = b then (if v = Memory.unlisted then m else (addr, v) :: m)
    else (b, w) :: Memory.write m addr v

/-- Addresses strictly rising from `low`, all below 64, and no byte equal to the unlisted one. -/
def Memory.risingFrom : Nat → Memory → Bool
  | _, [] => true
  | low, (b, v) :: m =>
    decide (low ≤ b) && decide (b < 64) && decide (v ≠ Memory.unlisted) && Memory.risingFrom (b + 1) m

/-- The canonical form of the block buffer. -/
def Memory.wf (m : Memory) : Bool := Memory.risingFrom 0 m

/-- `MemRead(addr, 1)` (20_memory.md R52). -/
def readByte (s : State) (addr : BitVec 6) : Byte := Memory.read s.buf addr.toNat

/-- `MemWrite(addr, 1, v)` (20_memory.md R53). -/
def writeByte (s : State) (addr : BitVec 6) (v : Byte) : State :=
  { s with buf := Memory.write s.buf addr.toNat v }

/-- The byte address of byte `j` of word `X[k]`: `4k + j` (20_memory.md R52). -/
def byteOfWord (k : BitVec 4) (j : BitVec 2) : BitVec 6 := k ++ j

/-- `X[k]`, equally `MemRead(4k, 4)`: the four bytes, the lowest address least significant
(20_memory.md R52). -/
def readWord (s : State) (k : BitVec 4) : Word :=
  readByte s (byteOfWord k 3) ++ readByte s (byteOfWord k 2) ++ readByte s (byteOfWord k 1) ++
    readByte s (byteOfWord k 0)

/-- `X[k] <- v`, equally `MemWrite(4k, 4, v)`: four byte writes (20_memory.md R53, which says that no rule
uses it). -/
def writeWord (s : State) (k : BitVec 4) (v : Word) : State :=
  writeByte (writeByte (writeByte (writeByte s (byteOfWord k 0) (v.extractLsb' 0 8))
    (byteOfWord k 1) (v.extractLsb' 8 8)) (byteOfWord k 2) (v.extractLsb' 16 8))
    (byteOfWord k 3) (v.extractLsb' 24 8)

/-- The writes `INIT` and `RESET` have in common: everything but `CAUSE` is as in the reset state, the initial value
in `A` to `D`, a cleared buffer, zero counters, no digest, phase `ABSORB` (45_commands.md R266;
70_reset_and_hazards.md R320, R321). No register keeps a trace of what was before (45_commands.md R267;
70_reset_and_hazards.md R322), so the hidden ones are as in the reset state too (log entries 3 and 7); the model's
own fields go on (log entries 1 and 4). -/
def openMessage (s : State) : State :=
  { State.reset with cause := s.cause, epoch := s.epoch, pending := s.pending }

/-- The `RESET` event: it acts in every phase and clears `CAUSE` too (70_reset_and_hazards.md R320, R321). Nothing
survives it (R322; 60_exceptions.md R303). -/
def resetCore (s : State) : State := { openMessage s with cause := .none }

/-- `raise c`: the effect of a fault. `A` to `D`, `X`, `FILL` and `NBYTES` keep their values, and control goes
nowhere (60_exceptions.md R293). There is no return from a fault but `RESET` (R294). -/
def raise (c : Cause) (s : State) : State :=
  { s with phase := .fault, cause := c, hex := Vector.replicate 32 0x00#8 }

/-- The end of a command that has used the sub-units: the hidden registers "have no value between commands"
(10_state.md R29, R30, R31), so each takes a free value (Config; log entry 4). -/
def closeCommand (s : State) : State :=
  { s with
    a := Config.freeWord s.epoch .a, b := Config.freeWord s.epoch .b
    c := Config.freeWord s.epoch .c, d := Config.freeWord s.epoch .d
    I := Config.freeIndex s.epoch
    encb := Vector.ofFn (Config.freeByte s.epoch), encn := Config.freeCount s.epoch
    f := Config.freeWord s.epoch .f, sum := Config.freeWord s.epoch .sum
    rot := Config.freeWord s.epoch .rot
    epoch := s.epoch + 1 }

/-- A host read of `HEX[j]`; it has no side effect (10_state.md R32; 20_memory.md R56). -/
def readHex (s : State) (j : Fin 32) : Byte := s.hex[j]

end Sys2Proof.Machine
end

