-- ==== Sys2Proof/Machine/Encoder.lean ====
section
/-! DEFINITION. The UTF-8 byte packer (40_encoder.md). -/

namespace Sys2Proof.Machine

/-- The bytes of one code point, or nothing for an operand in `0xD800 .. 0xDFFF` or above `0x10FFFF`
(40_encoder.md R101, R104). The layouts of two to four bytes are from general knowledge (93 G5, G6). -/
def utf8Bytes (cp : BitVec 21) : Option (List Byte) :=
  if cp ≤ 0x7F#21 then
    some [(cp.extractLsb' 0 7).setWidth 8]
  else if cp ≤ 0x7FF#21 then
    some [0xC0#8 ||| (cp.extractLsb' 6 5).setWidth 8, 0x80#8 ||| (cp.extractLsb' 0 6).setWidth 8]
  else if cp ≤ 0xFFFF#21 then
    if 0xD800#21 ≤ cp ∧ cp ≤ 0xDFFF#21 then none
    else some [0xE0#8 ||| (cp.extractLsb' 12 4).setWidth 8,
      0x80#8 ||| (cp.extractLsb' 6 6).setWidth 8, 0x80#8 ||| (cp.extractLsb' 0 6).setWidth 8]
  else if cp ≤ 0x10FFFF#21 then
    some [0xF0#8 ||| (cp.extractLsb' 18 3).setWidth 8, 0x80#8 ||| (cp.extractLsb' 12 6).setWidth 8,
      0x80#8 ||| (cp.extractLsb' 6 6).setWidth 8, 0x80#8 ||| (cp.extractLsb' 0 6).setWidth 8]
  else none

/-- The bytes go into the output latch: `ENCN` and `ENCB[0 .. ENCN-1]`; later entries of `ENCB` stay
(40_encoder.md R101). -/
def latchBytes (bytes : List Byte) (s : State) : State :=
  { s with encn := BitVec.ofNat 3 bytes.length
           encb := Vector.ofFn fun n : Fin 4 => bytes.getD n.val s.encb[n] }

/-- `ENC(cp)`: the latch is written, or the operand is no scalar value (40_encoder.md R101, R104). -/
def encodePoint (cp : BitVec 21) (s : State) : Option State :=
  match utf8Bytes cp with
  | none => none
  | some bytes => some (latchBytes bytes s)

end Sys2Proof.Machine
end

