-- ==== Sys2Proof/Machine/Alu.lean ====
section
/-! DEFINITION. The 32-bit word rotator and boolean function evaluator: the compressor's datapath
(42_alu.md). Pure functions; none has state, a flag or an error (R140). -/

namespace Sys2Proof.Machine

/-- `add32`: addition modulo 2^32, the carry recorded nowhere (42_alu.md R141). -/
def add32 (x y : Word) : Word := x + y

/-- `not32`: the complement within 32 bits (42_alu.md R142). -/
def not32 (x : Word) : Word := x ^^^ 0xFFFFFFFF#32

/-- `rotl32`: rotate left; amount 0 is the identity, stated apart (42_alu.md R143). -/
def rotl32 (x : Word) (s : BitVec 5) : Word :=
  if s = 0 then x else (x <<< s.toNat) ||| (x >>> (32 - s.toNat))

/-- `F`, round 0 (42_alu.md R145). -/
def funF (b c d : Word) : Word := (b &&& c) ||| (not32 b &&& d)

/-- `G`, round 1 (42_alu.md R146). -/
def funG (b c d : Word) : Word := (b &&& d) ||| (c &&& not32 d)

/-- `H`, round 2 (42_alu.md R147). -/
def funH (b c d : Word) : Word := b ^^^ c ^^^ d

/-- `I`, round 3 (42_alu.md R148). -/
def funI (b c d : Word) : Word := c ^^^ (b ||| not32 d)

/-- `FN`: the evaluator proper, by the select of 30_encoding.md R77 (42_alu.md R144). -/
def evalFn (fsel : BitVec 2) (b c d : Word) : Word :=
  if fsel = 0b00#2 then funF b c d
  else if fsel = 0b01#2 then funG b c d
  else if fsel = 0b10#2 then funH b c d
  else funI b c d

end Sys2Proof.Machine
end

