-- ==== Sys2Proof/Machine/Operands.lean ====
section
/-! DEFINITION. The operands of a step, decoded from the step index: the round, the position, the block word's
index `K(i)`, the shift amount `S[r][q]` and the additive constant `T[i]` (30_encoding.md R76;
43_compress.md R163 to R165). -/

namespace Sys2Proof.Machine

/-- Field `r` of the step index, equally the function select (30_encoding.md R76, R77). -/
def stepRound (i : BitVec 6) : BitVec 2 := i.extractLsb' 4 2

/-- Field `p` of the step index (30_encoding.md R76). -/
def stepPosition (i : BitVec 6) : BitVec 4 := i.extractLsb' 0 4

/-- Field `q` of the step index (30_encoding.md R76). -/
def stepColumn (i : BitVec 6) : BitVec 2 := i.extractLsb' 0 2

/-- `K(i)`, the index of the block word a step reads; the arithmetic on 4 bits is modulo 16
(43_compress.md R165, from general knowledge, 93 G1). -/
def stepWord (i : BitVec 6) : BitVec 4 :=
  if stepRound i = 0 then stepPosition i
  else if stepRound i = 1 then 5 * stepPosition i + 1
  else if stepRound i = 2 then 3 * stepPosition i + 5
  else 7 * stepPosition i

/-- Row 0 of the table `S`, function F (43_compress.md R164, from general knowledge, 93 G2). -/
def shiftRow0 : List (BitVec 5) := [7, 12, 17, 22]

/-- Row 1 of the table `S`, function G (43_compress.md R164, from general knowledge, 93 G2). -/
def shiftRow1 : List (BitVec 5) := [5, 9, 14, 20]

/-- Row 2 of the table `S`, function H (43_compress.md R164, from general knowledge, 93 G2). -/
def shiftRow2 : List (BitVec 5) := [4, 11, 16, 23]

/-- Row 3 of the table `S`, function I (43_compress.md R164, from general knowledge, 93 G2). -/
def shiftRow3 : List (BitVec 5) := [6, 10, 15, 21]

/-- `S[r][q]`, the rotate amount of a step (43_compress.md R164). -/
def stepShift (i : BitVec 6) : BitVec 5 :=
  (if stepRound i = 0 then shiftRow0
   else if stepRound i = 1 then shiftRow1
   else if stepRound i = 2 then shiftRow2
   else shiftRow3).getD (stepColumn i).toNat 0

/-- `T[0]` to `T[15]` (43_compress.md R163). -/
def constRow0 : List Word :=
  [0xd76aa478#32, 0xe8c7b756#32, 0x242070db#32, 0xc1bdceee#32,
   0xf57c0faf#32, 0x4787c62a#32, 0xa8304613#32, 0xfd469501#32,
   0x698098d8#32, 0x8b44f7af#32, 0xffff5bb1#32, 0x895cd7be#32,
   0x6b901122#32, 0xfd987193#32, 0xa679438e#32, 0x49b40821#32]

/-- `T[16]` to `T[31]` (43_compress.md R163). -/
def constRow1 : List Word :=
  [0xf61e2562#32, 0xc040b340#32, 0x265e5a51#32, 0xe9b6c7aa#32,
   0xd62f105d#32, 0x02441453#32, 0xd8a1e681#32, 0xe7d3fbc8#32,
   0x21e1cde6#32, 0xc33707d6#32, 0xf4d50d87#32, 0x455a14ed#32,
   0xa9e3e905#32, 0xfcefa3f8#32, 0x676f02d9#32, 0x8d2a4c8a#32]

/-- `T[32]` to `T[47]` (43_compress.md R163). -/
def constRow2 : List Word :=
  [0xfffa3942#32, 0x8771f681#32, 0x6d9d6122#32, 0xfde5380c#32,
   0xa4beea44#32, 0x4bdecfa9#32, 0xf6bb4b60#32, 0xbebfbc70#32,
   0x289b7ec6#32, 0xeaa127fa#32, 0xd4ef3085#32, 0x04881d05#32,
   0xd9d4d039#32, 0xe6db99e5#32, 0x1fa27cf8#32, 0xc4ac5665#32]

/-- `T[48]` to `T[63]` (43_compress.md R163). -/
def constRow3 : List Word :=
  [0xf4292244#32, 0x432aff97#32, 0xab9423a7#32, 0xfc93a039#32,
   0x655b59c3#32, 0x8f0ccc92#32, 0xffeff47d#32, 0x85845dd1#32,
   0x6fa87e4f#32, 0xfe2ce6e0#32, 0xa3014314#32, 0x4e0811a1#32,
   0xf7537e82#32, 0xbd3af235#32, 0x2ad7d2bb#32, 0xeb86d391#32]

/-- `T[i]`, the additive constant of a step: `floor(2^32 * abs(sin(i + 1)))` (43_compress.md R163). -/
def stepConst (i : BitVec 6) : Word :=
  (if stepRound i = 0 then constRow0
   else if stepRound i = 1 then constRow1
   else if stepRound i = 2 then constRow2
   else constRow3).getD (stepPosition i).toNat 0

end Sys2Proof.Machine
end

