-- ==== Sys2Proof/Machine/Compressor.lean ====
section
/-! DEFINITION. The compressor: the step formula, the step index and the feed-forward
(43_compress.md R161, R166 to R168). -/

namespace Sys2Proof.Machine

/-- One application of the step formula with its four decoded fields: function select, block word index, rotate
amount and additive constant (43_compress.md R166), and the exchange of the working registers (R167, from
general knowledge, 93 G3). The signals `f`, `sum` and `rot` keep what this step computed (log entry 7). -/
def applyStep (fsel : BitVec 2) (k : BitVec 4) (amount : BitVec 5) (t : Word) (s : State) : State :=
  let f := evalFn fsel s.b s.c s.d
  let sum := add32 (add32 (add32 s.a f) (readWord s k)) t
  let rot := rotl32 sum amount
  { s with a := s.d, b := add32 s.b rot, c := s.b, d := s.c, f := f, sum := sum, rot := rot }

/-- `STEP(I)`: the step the index selects, its fields from the tables (43_compress.md R163 to R166). -/
def stepAtIndex (s : State) : State :=
  applyStep (stepRound s.I) (stepWord s.I) (stepShift s.I) (stepConst s.I) s

/-- `I <- I + 1`, not performed after the 64th step (43_compress.md R161; log entry 8). -/
def advanceIndex (s : State) : State :=
  if s.I = 63 then s else { s with I := s.I + 1 }

/-- The start of `COMPRESS`: `(a, b, c, d) <- (A, B, C, D)`, `I <- 0` (43_compress.md R161). -/
def loadWorking (s : State) : State :=
  { s with a := s.A, b := s.B, c := s.C, d := s.D, I := 0 }

/-- A number of steps, each selected by `I` (43_compress.md R161). -/
def runSteps : Nat → State → State
  | 0, s => s
  | n + 1, s => runSteps n (advanceIndex (stepAtIndex s))

/-- `FEEDFORWARD`: the accumulation across blocks (43_compress.md R168). -/
def feedForward (s : State) : State :=
  { s with A := add32 s.A s.a, B := add32 s.B s.b, C := add32 s.C s.c, D := add32 s.D s.d }

/-- `COMPRESS`: fold the block in `X` into `A`, `B`, `C`, `D` (43_compress.md R161). -/
def compress (s : State) : State := feedForward (runSteps 64 (loadWorking s))

end Sys2Proof.Machine
end

