-- ==== Sys2Proof/Machine/Padder.lean ====
section
/-! DEFINITION. The block padding and formatter unit (41_padder.md). -/

namespace Sys2Proof.Machine

/-- `ABSORB(v)`: place one byte into the block at `FILL`; a full block is compressed and `FILL` starts over
(41_padder.md R121). `NBYTES` is not touched. -/
def absorb (v : Byte) (s : State) : State :=
  if s.fill = 63 then { compress (writeByte s s.fill v) with fill := 0 }
  else { writeByte s s.fill v with fill := s.fill + 1 }

/-- Absorb bytes in order. -/
def absorbAll : List Byte → State → State
  | [], s => s
  | v :: vs, s => absorbAll vs (absorb v s)

/-- The zeros of `PAD`: absorb `0x00` while `FILL != 56`, at most `n` times (41_padder.md R122). -/
def padZeros : Nat → State → State
  | 0, s => s
  | n + 1, s => if s.fill = 56 then s else padZeros n (absorb 0x00#8 s)

/-- The 64-bit length field `(8 * NBYTES) mod 2^64` (41_padder.md R122, R125). -/
def lengthField (s : State) : BitVec 64 := s.nbytes.setWidth 64 <<< 3

/-- The eight bytes of the length field, least significant first (41_padder.md R122, R125). -/
def lengthBytes (len64 : BitVec 64) : List Byte :=
  [len64.extractLsb' 0 8, len64.extractLsb' 8 8, len64.extractLsb' 16 8, len64.extractLsb' 24 8,
   len64.extractLsb' 32 8, len64.extractLsb' 40 8, len64.extractLsb' 48 8, len64.extractLsb' 56 8]

/-- `PAD`: the byte `0x80`, zeros until 56 bytes of a block are filled, then the length field, computed before
the first `ABSORB`. The loop ends after at most 63 iterations, so 64 are allowed (41_padder.md R122). -/
def pad (s : State) : State :=
  absorbAll (lengthBytes (lengthField s)) (padZeros 64 (absorb 0x80#8 s))

end Sys2Proof.Machine
end

