-- ==== Sys2Proof/Machine/Serializer.lean ====
section
/-! DEFINITION. The little-endian hex serializer (44_serializer.md). -/

namespace Sys2Proof.Machine

/-- `HEXCHAR(n)`: the ASCII code of a nibble's lowercase hexadecimal digit (44_serializer.md R250). -/
def hexChar (n : BitVec 4) : Byte :=
  if n < 10#4 then 0x30#8 + n.setWidth 8 else 0x61#8 + (n.setWidth 8 - 10#8)

/-- `DB[m]`: digest byte `m`, from the words in the order `A`, `B`, `C`, `D`, least significant byte first
(44_serializer.md R251). -/
def digestByte (A B C D : Word) (m : Nat) : Byte :=
  ([A, B, C, D].getD (m / 4) 0).extractLsb' (8 * (m % 4)) 8

/-- The 32 digest characters: for each byte its high nibble's digit, then its low nibble's
(44_serializer.md R252). -/
def digestChars (A B C D : Word) : Vector Byte 32 :=
  Vector.ofFn fun j : Fin 32 =>
    if j.val % 2 = 0 then hexChar ((digestByte A B C D (j.val / 2)).extractLsb' 4 4)
    else hexChar ((digestByte A B C D (j.val / 2)).extractLsb' 0 4)

/-- `HEXSER`: write the 32 digest characters; `A` to `D` are not changed (44_serializer.md R252). -/
def serialize (s : State) : State := { s with hex := digestChars s.A s.B s.C s.D }

end Sys2Proof.Machine
end

