-- ==== Sys2Proof/Machine/Commands.lean ====
section
/-! DEFINITION. The three commands (45_commands.md R265 to R271). Each makes its admission checks before it
writes anything: phase `FAULT` ignores it, phase `DONE` refuses `PUTC` and `FINAL` with `SEQ` (R265). -/

namespace Sys2Proof.Machine

/-- Append the bytes the packer has latched, counting each: `ABSORB`, then `NBYTES + 1` modulo 2^61
(45_commands.md R268). -/
def appendBytes : List Byte → State → State
  | [], s => s
  | v :: vs, s =>
    let s' := absorb v s
    appendBytes vs { s' with nbytes := s'.nbytes + 1 }

/-- `ENCB[0 .. ENCN-1]` (45_commands.md R268). -/
def latchedBytes (s : State) : List Byte := s.encb.toList.take s.encn.toNat

/-- `INIT`: legal in `ABSORB` and `DONE`, ignored in `FAULT` (45_commands.md R266, R267). -/
def execInit (s : State) : Host.Outcome State Fault Refusal :=
  match s.phase with
  | .fault => .next s
  | .absorb => .next (openMessage s)
  | .done => .next (openMessage s)

/-- `PUTC cp`: `SEQ` in `DONE`, then `BADCP` for an operand that is no scalar value, else the bytes of the code
point are appended (45_commands.md R265, R268; 60_exceptions.md R292). -/
def execPutc (cp : BitVec 21) (s : State) : Host.Outcome State Fault Refusal :=
  match s.phase with
  | .fault => .next s
  | .done => .next (raise .seq s)
  | .absorb =>
    match encodePoint cp s with
    | none => .next (raise .badcp s)
    | some s1 => .next (closeCommand (appendBytes (latchedBytes s1) s1))

/-- `FINAL`: `SEQ` in `DONE`, else pad, serialize, and the phase becomes `DONE`
(45_commands.md R265, R270). -/
def execFinal (s : State) : Host.Outcome State Fault Refusal :=
  match s.phase with
  | .fault => .next s
  | .done => .next (raise .seq s)
  | .absorb => .next (closeCommand { serialize (pad s) with phase := .done })

end Sys2Proof.Machine
end

