-- ==== Sys2Proof/Machine/Evaluator.lean ====
section
/-! DEFINITION. The boolean function evaluator's four selects and the rotator, each run on its own
(42_alu.md R143 to R148). In a step the evaluator's arguments are the working registers `b`, `c`, `d` and its
result is the signal `f` (42_alu.md R144; 43_compress.md R166); the rotator's operand is the signal `sum` and
its result the signal `rot`. Run alone they use the same places (log entry 6). -/

namespace Sys2Proof.Machine

/-- The evaluator with a select: `f <- FN(fsel, b, c, d)` (42_alu.md R144). -/
def evaluate (fsel : BitVec 2) (s : State) : State := { s with f := evalFn fsel s.b s.c s.d }

/-- `FN.F` (42_alu.md R145). -/
def execFnF (s : State) : Host.Outcome State Fault Refusal := .next (evaluate 0b00#2 s)

/-- `FN.G` (42_alu.md R146). -/
def execFnG (s : State) : Host.Outcome State Fault Refusal := .next (evaluate 0b01#2 s)

/-- `FN.H` (42_alu.md R147). -/
def execFnH (s : State) : Host.Outcome State Fault Refusal := .next (evaluate 0b10#2 s)

/-- `FN.I` (42_alu.md R148). -/
def execFnI (s : State) : Host.Outcome State Fault Refusal := .next (evaluate 0b11#2 s)

/-- `ROTL`: `rot <- rotl32(sum, s)` (42_alu.md R143). -/
def execRotl (amount : BitVec 5) (s : State) : Host.Outcome State Fault Refusal :=
  .next { s with rot := rotl32 s.sum amount }

end Sys2Proof.Machine
end

