-- ==== Sys2Proof/Machine/Steps.lean ====
section
/-! DEFINITION. The 64 step micro-operations, one per rule 43_compress.md R172 to R235, each with the fields its
own rule gives: function select, block word index, rotate amount, additive constant. A step writes only the
working registers and the step's signals; the sequencer, not the step, moves `I` (R161; log entry 8). -/

namespace Sys2Proof.Machine

/-- `F00` (43_compress.md R172). -/
def execF00 (s : State) : Host.Outcome State Fault Refusal :=
  .next (applyStep 0b00#2 0#4 7#5 0xd76aa478#32 s)

/-- `F01` (43_compress.md R173). -/
def execF01 (s : State) : Host.Outcome State Fault Refusal :=
  .next (applyStep 0b00#2 1#4 12#5 0xe8c7b756#32 s)

/-- `F02` (43_compress.md R174). -/
def execF02 (s : State) : Host.Outcome State Fault Refusal :=
  .next (applyStep 0b00#2 2#4 17#5 0x242070db#32 s)

/-- `F03` (43_compress.md R175). -/
def execF03 (s : State) : Host.Outcome State Fault Refusal :=
  .next (applyStep 0b00#2 3#4 22#5 0xc1bdceee#32 s)

/-- `F04` (43_compress.md R176). -/
def execF04 (s : State) : Host.Outcome State Fault Refusal :=
  .next (applyStep 0b00#2 4#4 7#5 0xf57c0faf#32 s)

/-- `F05` (43_compress.md R177). -/
def execF05 (s : State) : Host.Outcome State Fault Refusal :=
  .next (applyStep 0b00#2 5#4 12#5 0x4787c62a#32 s)

/-- `F06` (43_compress.md R178). -/
def execF06 (s : State) : Host.Outcome State Fault Refusal :=
  .next (applyStep 0b00#2 6#4 17#5 0xa8304613#32 s)

/-- `F07` (43_compress.md R179). -/
def execF07 (s : State) : Host.Outcome State Fault Refusal :=
  .next (applyStep 0b00#2 7#4 22#5 0xfd469501#32 s)

/-- `F08` (43_compress.md R180). -/
def execF08 (s : State) : Host.Outcome State Fault Refusal :=
  .next (applyStep 0b00#2 8#4 7#5 0x698098d8#32 s)

/-- `F09` (43_compress.md R181). -/
def execF09 (s : State) : Host.Outcome State Fault Refusal :=
  .next (applyStep 0b00#2 9#4 12#5 0x8b44f7af#32 s)

/-- `F10` (43_compress.md R182). -/
def execF10 (s : State) : Host.Outcome State Fault Refusal :=
  .next (applyStep 0b00#2 10#4 17#5 0xffff5bb1#32 s)

/-- `F11` (43_compress.md R183). -/
def execF11 (s : State) : Host.Outcome State Fault Refusal :=
  .next (applyStep 0b00#2 11#4 22#5 0x895cd7be#32 s)

/-- `F12` (43_compress.md R184). -/
def execF12 (s : State) : Host.Outcome State Fault Refusal :=
  .next (applyStep 0b00#2 12#4 7#5 0x6b901122#32 s)

/-- `F13` (43_compress.md R185). -/
def execF13 (s : State) : Host.Outcome State Fault Refusal :=
  .next (applyStep 0b00#2 13#4 12#5 0xfd987193#32 s)

/-- `F14` (43_compress.md R186). -/
def execF14 (s : State) : Host.Outcome State Fault Refusal :=
  .next (applyStep 0b00#2 14#4 17#5 0xa679438e#32 s)

/-- `F15` (43_compress.md R187). -/
def execF15 (s : State) : Host.Outcome State Fault Refusal :=
  .next (applyStep 0b00#2 15#4 22#5 0x49b40821#32 s)

/-- `G16` (43_compress.md R188). -/
def execG16 (s : State) : Host.Outcome State Fault Refusal :=
  .next (applyStep 0b01#2 1#4 5#5 0xf61e2562#32 s)

/-- `G17` (43_compress.md R189). -/
def execG17 (s : State) : Host.Outcome State Fault Refusal :=
  .next (applyStep 0b01#2 6#4 9#5 0xc040b340#32 s)

/-- `G18` (43_compress.md R190). -/
def execG18 (s : State) : Host.Outcome State Fault Refusal :=
  .next (applyStep 0b01#2 11#4 14#5 0x265e5a51#32 s)

/-- `G19` (43_compress.md R191). -/
def execG19 (s : State) : Host.Outcome State Fault Refusal :=
  .next (applyStep 0b01#2 0#4 20#5 0xe9b6c7aa#32 s)

/-- `G20` (43_compress.md R192). -/
def execG20 (s : State) : Host.Outcome State Fault Refusal :=
  .next (applyStep 0b01#2 5#4 5#5 0xd62f105d#32 s)

/-- `G21` (43_compress.md R193). -/
def execG21 (s : State) : Host.Outcome State Fault Refusal :=
  .next (applyStep 0b01#2 10#4 9#5 0x02441453#32 s)

/-- `G22` (43_compress.md R194). -/
def execG22 (s : State) : Host.Outcome State Fault Refusal :=
  .next (applyStep 0b01#2 15#4 14#5 0xd8a1e681#32 s)

/-- `G23` (43_compress.md R195). -/
def execG23 (s : State) : Host.Outcome State Fault Refusal :=
  .next (applyStep 0b01#2 4#4 20#5 0xe7d3fbc8#32 s)

/-- `G24` (43_compress.md R196). -/
def execG24 (s : State) : Host.Outcome State Fault Refusal :=
  .next (applyStep 0b01#2 9#4 5#5 0x21e1cde6#32 s)

/-- `G25` (43_compress.md R197). -/
def execG25 (s : State) : Host.Outcome State Fault Refusal :=
  .next (applyStep 0b01#2 14#4 9#5 0xc33707d6#32 s)

/-- `G26` (43_compress.md R198). -/
def execG26 (s : State) : Host.Outcome State Fault Refusal :=
  .next (applyStep 0b01#2 3#4 14#5 0xf4d50d87#32 s)

/-- `G27` (43_compress.md R199). -/
def execG27 (s : State) : Host.Outcome State Fault Refusal :=
  .next (applyStep 0b01#2 8#4 20#5 0x455a14ed#32 s)

/-- `G28` (43_compress.md R200). -/
def execG28 (s : State) : Host.Outcome State Fault Refusal :=
  .next (applyStep 0b01#2 13#4 5#5 0xa9e3e905#32 s)

/-- `G29` (43_compress.md R201). -/
def execG29 (s : State) : Host.Outcome State Fault Refusal :=
  .next (applyStep 0b01#2 2#4 9#5 0xfcefa3f8#32 s)

/-- `G30` (43_compress.md R202). -/
def execG30 (s : State) : Host.Outcome State Fault Refusal :=
  .next (applyStep 0b01#2 7#4 14#5 0x676f02d9#32 s)

/-- `G31` (43_compress.md R203). -/
def execG31 (s : State) : Host.Outcome State Fault Refusal :=
  .next (applyStep 0b01#2 12#4 20#5 0x8d2a4c8a#32 s)

/-- `H32` (43_compress.md R204). -/
def execH32 (s : State) : Host.Outcome State Fault Refusal :=
  .next (applyStep 0b10#2 5#4 4#5 0xfffa3942#32 s)

/-- `H33` (43_compress.md R205). -/
def execH33 (s : State) : Host.Outcome State Fault Refusal :=
  .next (applyStep 0b10#2 8#4 11#5 0x8771f681#32 s)

/-- `H34` (43_compress.md R206). -/
def execH34 (s : State) : Host.Outcome State Fault Refusal :=
  .next (applyStep 0b10#2 11#4 16#5 0x6d9d6122#32 s)

/-- `H35` (43_compress.md R207). -/
def execH35 (s : State) : Host.Outcome State Fault Refusal :=
  .next (applyStep 0b10#2 14#4 23#5 0xfde5380c#32 s)

/-- `H36` (43_compress.md R208). -/
def execH36 (s : State) : Host.Outcome State Fault Refusal :=
  .next (applyStep 0b10#2 1#4 4#5 0xa4beea44#32 s)

/-- `H37` (43_compress.md R209). -/
def execH37 (s : State) : Host.Outcome State Fault Refusal :=
  .next (applyStep 0b10#2 4#4 11#5 0x4bdecfa9#32 s)

/-- `H38` (43_compress.md R210). -/
def execH38 (s : State) : Host.Outcome State Fault Refusal :=
  .next (applyStep 0b10#2 7#4 16#5 0xf6bb4b60#32 s)

/-- `H39` (43_compress.md R211). -/
def execH39 (s : State) : Host.Outcome State Fault Refusal :=
  .next (applyStep 0b10#2 10#4 23#5 0xbebfbc70#32 s)

/-- `H40` (43_compress.md R212). -/
def execH40 (s : State) : Host.Outcome State Fault Refusal :=
  .next (applyStep 0b10#2 13#4 4#5 0x289b7ec6#32 s)

/-- `H41` (43_compress.md R213). -/
def execH41 (s : State) : Host.Outcome State Fault Refusal :=
  .next (applyStep 0b10#2 0#4 11#5 0xeaa127fa#32 s)

/-- `H42` (43_compress.md R214). -/
def execH42 (s : State) : Host.Outcome State Fault Refusal :=
  .next (applyStep 0b10#2 3#4 16#5 0xd4ef3085#32 s)

/-- `H43` (43_compress.md R215). -/
def execH43 (s : State) : Host.Outcome State Fault Refusal :=
  .next (applyStep 0b10#2 6#4 23#5 0x04881d05#32 s)

/-- `H44` (43_compress.md R216). -/
def execH44 (s : State) : Host.Outcome State Fault Refusal :=
  .next (applyStep 0b10#2 9#4 4#5 0xd9d4d039#32 s)

/-- `H45` (43_compress.md R217). -/
def execH45 (s : State) : Host.Outcome State Fault Refusal :=
  .next (applyStep 0b10#2 12#4 11#5 0xe6db99e5#32 s)

/-- `H46` (43_compress.md R218). -/
def execH46 (s : State) : Host.Outcome State Fault Refusal :=
  .next (applyStep 0b10#2 15#4 16#5 0x1fa27cf8#32 s)

/-- `H47` (43_compress.md R219). -/
def execH47 (s : State) : Host.Outcome State Fault Refusal :=
  .next (applyStep 0b10#2 2#4 23#5 0xc4ac5665#32 s)

/-- `I48` (43_compress.md R220). -/
def execI48 (s : State) : Host.Outcome State Fault Refusal :=
  .next (applyStep 0b11#2 0#4 6#5 0xf4292244#32 s)

/-- `I49` (43_compress.md R221). -/
def execI49 (s : State) : Host.Outcome State Fault Refusal :=
  .next (applyStep 0b11#2 7#4 10#5 0x432aff97#32 s)

/-- `I50` (43_compress.md R222). -/
def execI50 (s : State) : Host.Outcome State Fault Refusal :=
  .next (applyStep 0b11#2 14#4 15#5 0xab9423a7#32 s)

/-- `I51` (43_compress.md R223). -/
def execI51 (s : State) : Host.Outcome State Fault Refusal :=
  .next (applyStep 0b11#2 5#4 21#5 0xfc93a039#32 s)

/-- `I52` (43_compress.md R224). -/
def execI52 (s : State) : Host.Outcome State Fault Refusal :=
  .next (applyStep 0b11#2 12#4 6#5 0x655b59c3#32 s)

/-- `I53` (43_compress.md R225). -/
def execI53 (s : State) : Host.Outcome State Fault Refusal :=
  .next (applyStep 0b11#2 3#4 10#5 0x8f0ccc92#32 s)

/-- `I54` (43_compress.md R226). -/
def execI54 (s : State) : Host.Outcome State Fault Refusal :=
  .next (applyStep 0b11#2 10#4 15#5 0xffeff47d#32 s)

/-- `I55` (43_compress.md R227). -/
def execI55 (s : State) : Host.Outcome State Fault Refusal :=
  .next (applyStep 0b11#2 1#4 21#5 0x85845dd1#32 s)

/-- `I56` (43_compress.md R228). -/
def execI56 (s : State) : Host.Outcome State Fault Refusal :=
  .next (applyStep 0b11#2 8#4 6#5 0x6fa87e4f#32 s)

/-- `I57` (43_compress.md R229). -/
def execI57 (s : State) : Host.Outcome State Fault Refusal :=
  .next (applyStep 0b11#2 15#4 10#5 0xfe2ce6e0#32 s)

/-- `I58` (43_compress.md R230). -/
def execI58 (s : State) : Host.Outcome State Fault Refusal :=
  .next (applyStep 0b11#2 6#4 15#5 0xa3014314#32 s)

/-- `I59` (43_compress.md R231). -/
def execI59 (s : State) : Host.Outcome State Fault Refusal :=
  .next (applyStep 0b11#2 13#4 21#5 0x4e0811a1#32 s)

/-- `I60` (43_compress.md R232). -/
def execI60 (s : State) : Host.Outcome State Fault Refusal :=
  .next (applyStep 0b11#2 4#4 6#5 0xf7537e82#32 s)

/-- `I61` (43_compress.md R233). -/
def execI61 (s : State) : Host.Outcome State Fault Refusal :=
  .next (applyStep 0b11#2 11#4 10#5 0xbd3af235#32 s)

/-- `I62` (43_compress.md R234). -/
def execI62 (s : State) : Host.Outcome State Fault Refusal :=
  .next (applyStep 0b11#2 2#4 15#5 0x2ad7d2bb#32 s)

/-- `I63` (43_compress.md R235). -/
def execI63 (s : State) : Host.Outcome State Fault Refusal :=
  .next (applyStep 0b11#2 9#4 21#5 0xeb86d391#32 s)

end Sys2Proof.Machine
end

