-- ==== Sys2Proof/Machine/Dispatch.lean ====
section
/-! DEFINITION. One arm per instruction: the meaning each one has. -/

namespace Sys2Proof.Machine

def exec (i : Instr) (s : State) : Host.Outcome State Fault Refusal :=
  match i with
  | .init => Sys2Proof.Machine.execInit s
  | .putc cp => Sys2Proof.Machine.execPutc cp s
  | .final => Sys2Proof.Machine.execFinal s
  | .f00 => Sys2Proof.Machine.execF00 s
  | .f01 => Sys2Proof.Machine.execF01 s
  | .f02 => Sys2Proof.Machine.execF02 s
  | .f03 => Sys2Proof.Machine.execF03 s
  | .f04 => Sys2Proof.Machine.execF04 s
  | .f05 => Sys2Proof.Machine.execF05 s
  | .f06 => Sys2Proof.Machine.execF06 s
  | .f07 => Sys2Proof.Machine.execF07 s
  | .f08 => Sys2Proof.Machine.execF08 s
  | .f09 => Sys2Proof.Machine.execF09 s
  | .f10 => Sys2Proof.Machine.execF10 s
  | .f11 => Sys2Proof.Machine.execF11 s
  | .f12 => Sys2Proof.Machine.execF12 s
  | .f13 => Sys2Proof.Machine.execF13 s
  | .f14 => Sys2Proof.Machine.execF14 s
  | .f15 => Sys2Proof.Machine.execF15 s
  | .g16 => Sys2Proof.Machine.execG16 s
  | .g17 => Sys2Proof.Machine.execG17 s
  | .g18 => Sys2Proof.Machine.execG18 s
  | .g19 => Sys2Proof.Machine.execG19 s
  | .g20 => Sys2Proof.Machine.execG20 s
  | .g21 => Sys2Proof.Machine.execG21 s
  | .g22 => Sys2Proof.Machine.execG22 s
  | .g23 => Sys2Proof.Machine.execG23 s
  | .g24 => Sys2Proof.Machine.execG24 s
  | .g25 => Sys2Proof.Machine.execG25 s
  | .g26 => Sys2Proof.Machine.execG26 s
  | .g27 => Sys2Proof.Machine.execG27 s
  | .g28 => Sys2Proof.Machine.execG28 s
  | .g29 => Sys2Proof.Machine.execG29 s
  | .g30 => Sys2Proof.Machine.execG30 s
  | .g31 => Sys2Proof.Machine.execG31 s
  | .h32 => Sys2Proof.Machine.execH32 s
  | .h33 => Sys2Proof.Machine.execH33 s
  | .h34 => Sys2Proof.Machine.execH34 s
  | .h35 => Sys2Proof.Machine.execH35 s
  | .h36 => Sys2Proof.Machine.execH36 s
  | .h37 => Sys2Proof.Machine.execH37 s
  | .h38 => Sys2Proof.Machine.execH38 s
  | .h39 => Sys2Proof.Machine.execH39 s
  | .h40 => Sys2Proof.Machine.execH40 s
  | .h41 => Sys2Proof.Machine.execH41 s
  | .h42 => Sys2Proof.Machine.execH42 s
  | .h43 => Sys2Proof.Machine.execH43 s
  | .h44 => Sys2Proof.Machine.execH44 s
  | .h45 => Sys2Proof.Machine.execH45 s
  | .h46 => Sys2Proof.Machine.execH46 s
  | .h47 => Sys2Proof.Machine.execH47 s
  | .i48 => Sys2Proof.Machine.execI48 s
  | .i49 => Sys2Proof.Machine.execI49 s
  | .i50 => Sys2Proof.Machine.execI50 s
  | .i51 => Sys2Proof.Machine.execI51 s
  | .i52 => Sys2Proof.Machine.execI52 s
  | .i53 => Sys2Proof.Machine.execI53 s
  | .i54 => Sys2Proof.Machine.execI54 s
  | .i55 => Sys2Proof.Machine.execI55 s
  | .i56 => Sys2Proof.Machine.execI56 s
  | .i57 => Sys2Proof.Machine.execI57 s
  | .i58 => Sys2Proof.Machine.execI58 s
  | .i59 => Sys2Proof.Machine.execI59 s
  | .i60 => Sys2Proof.Machine.execI60 s
  | .i61 => Sys2Proof.Machine.execI61 s
  | .i62 => Sys2Proof.Machine.execI62 s
  | .i63 => Sys2Proof.Machine.execI63 s
  | .fnF => Sys2Proof.Machine.execFnF s
  | .fnG => Sys2Proof.Machine.execFnG s
  | .fnH => Sys2Proof.Machine.execFnH s
  | .fnI => Sys2Proof.Machine.execFnI s
  | .rotl amount => Sys2Proof.Machine.execRotl amount s

end Sys2Proof.Machine
end

