-- ==== Sys2Proof/Machine/Execute.lean ====
section
/-! DEFINITION. How a command word and the other events are executed (45_commands.md R265; 43_compress.md R161),
and where the next event is fetched. -/

namespace Sys2Proof.Machine

/-- `EXECUTE(w)`: in phase `FAULT` the word is ignored, not decoded; an undecodable word raises `ILLCMD`; a
command makes its own further checks (45_commands.md R265; 60_exceptions.md R294). -/
def executeWord (w : BitVec 32) (s : State) : Host.Outcome State Fault Refusal :=
  match s.phase with
  | .fault => .next s
  | .absorb | .done =>
    match decodeCommand w with
    | .reject _ => .next (raise .illcmd s)
    | .instr i => exec i s

/-- The sequencer's part after a step: a next state has its index moved (43_compress.md R161). -/
def afterStep : Host.Outcome State Fault Refusal → Host.Outcome State Fault Refusal
  | .next s => .next (advanceIndex s)
  | .fault r => .fault r
  | .refused r => .refused r

/-- What one event does. A step, a select and an amount are decoded in their own formats
(30_encoding.md R76 to R78). -/
def executeEvent (e : Event) (s : State) : Host.Outcome State Fault Refusal :=
  match e with
  | .command w => executeWord w s
  | .reset => .next (resetCore s)
  | .load => .next (loadWorking s)
  | .step => afterStep (exec (decodeStep s.I) s)
  | .select fsel => exec (decodeSelect fsel) s
  | .rotate amount => exec (decodeRotate amount) s

/-- Takes the next event. With none there is nothing to do: between commands the CORE simply holds its state
(60_exceptions.md R303). -/
def executeNext (s : State) : Host.Outcome State Fault Refusal :=
  match s.pending with
  | [] => .next s
  | e :: rest => executeEvent e { s with pending := rest }

/-- Puts an encoded operation where the next step fetches: a command, select or amount becomes the first pending
event; a step is what the index `I` selects, so `I` takes the bits and a step event is put first
(30_encoding.md R76). -/
def placeEncoding (e : Encoding) (s : State) : State :=
  match e with
  | .cmd32 w => { s with pending := .command w :: s.pending }
  | .step6 i => { s with I := i, pending := .step :: s.pending }
  | .fsel2 fsel => { s with pending := .select fsel :: s.pending }
  | .rot5 amount => { s with pending := .rotate amount :: s.pending }

/-- Places the operation a row's bits stand for; bits that stand for none change nothing (log entry 10). -/
def placeTableWord (nbits w : Nat) (s : State) : State :=
  match tableEncoding nbits w with
  | none => s
  | some e => placeEncoding e s

end Sys2Proof.Machine
end

