-- ==== Sys2Proof/Machine/Step.lean ====
section
/-! DEFINITION. One step of the machine: one event (30_encoding.md R71: "its step is one command or one reset"),
or one micro-operation (00_scope.md R17). -/

namespace Sys2Proof.Machine

/-- One step: the first pending event is taken and executed; with none the state is held. -/
def step (s : State) : Host.Outcome State Fault Refusal := executeNext s

/-- `s` with the operation of a table row's bits placed where `step` fetches next. The host's command sequence
comes from outside the CORE (10_state.md R33), so placing it stands for the host sending it (log entry 1). -/
def State.withFetchWord (s : State) (nbits w : Nat) : State := placeTableWord nbits w s

end Sys2Proof.Machine
end

