-- ==== Sys2Proof/Machine/Assembler.lean ====
section
/-! DEFINITION. The assembler notation of the spec's test programs: a line's words (30_encoding.md R80, R81),
and how a line is read from its characters (R80; log entry 12). -/

namespace Sys2Proof.Machine

/-- The word of a command with its operand as a number: `0x02000000 + cp` for `PUTC` (30_encoding.md R80). -/
def putcWord (cp : Nat) : BitVec 32 := 0x02000000#32 + BitVec.ofNat 32 cp

/-- The words of a line, or nothing where the assembler rejects it (30_encoding.md R80, R81). -/
def assembleLine (l : AsmLine) : Option (List (BitVec 32)) :=
  if l.wellFormed = false then none
  else
    match l with
    | .init => some [0x01000000#32]
    | .putc o => some [putcWord o.value]
    | .final => some [0x03000000#32]
    | .puts text => some (text.map putcWord)
    | .hash text => some (0x01000000#32 :: text.map putcWord ++ [0x03000000#32])

/-- A blank between the parts of a line. -/
def isBlank (c : Char) : Bool := c = ' ' || c = Char.ofNat 9

/-- Nothing follows but blanks and a comment, which a semicolon starts (30_encoding.md R80). -/
def endsLine (cs : List Char) : Bool :=
  match cs.dropWhile isBlank with
  | [] => true
  | c :: _ => c = ';'

/-- The value of a hexadecimal digit character, of either case. -/
def hexDigit (c : Char) : Option Nat :=
  let n := c.toNat
  if 0x30 ≤ n ∧ n ≤ 0x39 then some (n - 0x30)
  else if 0x41 ≤ n ∧ n ≤ 0x46 then some (n - 0x41 + 10)
  else if 0x61 ≤ n ∧ n ≤ 0x66 then some (n - 0x61 + 10)
  else none

/-- The hexadecimal digits a text begins with, and what follows them. -/
def takeDigits : List Char → List Nat × List Char
  | [] => ([], [])
  | c :: cs =>
    match hexDigit c with
    | some d => (d :: (takeDigits cs).1, (takeDigits cs).2)
    | none => ([], c :: cs)

/-- The double quote and the single quote. -/
def doubleQuote : Char := Char.ofNat 0x22
def singleQuote : Char := Char.ofNat 0x27

/-- An operand of `PUTC` and what follows it (30_encoding.md R80). -/
def readOperand : List Char → Option (AsmOperand × List Char)
  | c :: e :: cs =>
    if c = 'U' ∧ e = '+' then some (.codePoint (takeDigits cs).1, (takeDigits cs).2)
    else if c = '0' ∧ e = 'x' then some (.hexadecimal (takeDigits cs).1, (takeDigits cs).2)
    else if c = singleQuote then
      match cs with
      | q :: rest => if q = singleQuote then some (.quoted e.toNat, rest) else none
      | [] => none
    else some (.decimal (takeDigits (c :: e :: cs)).1, (takeDigits (c :: e :: cs)).2)
  | cs => some (.decimal (takeDigits cs).1, (takeDigits cs).2)

/-- The code points of a text in double quotes, and what follows it (30_encoding.md R81). -/
def readText : List Char → Option (List Nat × List Char)
  | [] => none
  | q :: cs =>
    if q = doubleQuote then
      match cs.dropWhile (· ≠ doubleQuote) with
      | [] => none
      | _ :: rest => some ((cs.takeWhile (· ≠ doubleQuote)).map Char.toNat, rest)
    else none

/-- What a line of characters is: blank, a line, or not the notation (30_encoding.md R80, R81). -/
inductive Parsed where
  | blank
  | line (l : AsmLine)
  | malformed
  deriving DecidableEq, Repr

/-- A line with its operand, if nothing but a comment follows. -/
def closedLine (l : AsmLine) (rest : List Char) : Parsed :=
  if endsLine rest then .line l else .malformed

/-- Reads one line: a mnemonic in upper case and its operand (30_encoding.md R80, R81). -/
def parseLine (cs : List Char) : Parsed :=
  if endsLine cs then .blank
  else
    let body := cs.dropWhile isBlank
    let word := String.ofList (body.takeWhile (fun c => !isBlank c && c != ';'))
    let rest := (body.dropWhile (fun c => !isBlank c && c != ';')).dropWhile isBlank
    if word = "INIT" then closedLine .init rest
    else if word = "FINAL" then closedLine .final rest
    else if word = "PUTC" then
      match readOperand rest with
      | some (o, more) => closedLine (.putc o) more
      | none => .malformed
    else if word = "PUTS" then
      match readText rest with
      | some (text, more) => closedLine (.puts text) more
      | none => .malformed
    else if word = "HASH" then
      match readText rest with
      | some (text, more) => closedLine (.hash text) more
      | none => .malformed
    else .malformed

/-- The words of one line of characters; a blank line has none. -/
def assemble (cs : List Char) : Option (List (BitVec 32)) :=
  match parseLine cs with
  | .blank => some []
  | .line l => assembleLine l
  | .malformed => none

end Sys2Proof.Machine
end

