-- ==== Sys2Proof/Machine/Flags.lean ====
section
/-! DEFINITION. The CORE's only flags, `PHASE` and `CAUSE`, as the host reads them (10_state.md R25, R26). No
operation of the datapath records anything about its result. -/

namespace Sys2Proof.Machine

/-- The code of a phase (10_state.md R25). -/
def phaseCode : Phase → BitVec 2
  | .absorb => 0
  | .done => 1
  | .fault => 2

/-- The code of a cause (10_state.md R25). -/
def causeCode : Cause → BitVec 2
  | .none => 0
  | .illcmd => 1
  | .seq => 2
  | .badcp => 3

/-- A host read of `STATUS`: bits 7:4 zero, `CAUSE` in 3:2, `PHASE` in 1:0; it has no side effect
(10_state.md R25, R32). -/
def statusByte (s : State) : Byte := (0 : BitVec 4) ++ causeCode s.cause ++ phaseCode s.phase

end Sys2Proof.Machine
end

