-- ==== Sys2Proof/Machine/Message.lean ====
section
/-! DEFINITION. The whole-message view, as specification functions (41_padder.md R127; 43_compress.md R162): the
padded message, its blocks, the compression function as a pure function, and the digest of a text
(45_commands.md R272). The machine never computes these; statements compare it with them. -/

namespace Sys2Proof.Machine

/-- A chaining value, or the four working registers. -/
structure Chain where
  A : Word
  B : Word
  C : Word
  D : Word
  deriving DecidableEq, Repr

/-- `IV` (10_state.md R21). -/
def initialChain : Chain := ⟨0x67452301#32, 0xefcdab89#32, 0x98badcfe#32, 0x10325476#32⟩

/-- The chaining registers of a state. -/
def chainOf (s : State) : Chain := ⟨s.A, s.B, s.C, s.D⟩

/-- The working registers of a state. -/
def workingOf (s : State) : Chain := ⟨s.a, s.b, s.c, s.d⟩

/-- One step of `CF` over the working tuple (43_compress.md R162). -/
def cfStep (x : BitVec 4 → Word) (w : Chain) (i : BitVec 6) : Chain :=
  let t := add32 w.B (rotl32 (add32 (add32 (add32 w.A (evalFn (stepRound i) w.B w.C w.D))
    (x (stepWord i))) (stepConst i)) (stepShift i))
  ⟨w.D, t, w.B, w.C⟩

/-- The working tuple after the first `n` steps. -/
def cfSteps (x : BitVec 4 → Word) (w : Chain) (n : Nat) : Chain :=
  (List.range n).foldl (fun v i => cfStep x v (BitVec.ofNat 6 i)) w

/-- `CF((A, B, C, D), x)`: the compression function (43_compress.md R162). -/
def compressionFn (st : Chain) (x : BitVec 4 → Word) : Chain :=
  let w := cfSteps x st 64
  ⟨add32 st.A w.A, add32 st.B w.B, add32 st.C w.C, add32 st.D w.D⟩

/-- The zeros of the padding: `(55 - L) mod 64` of them (41_padder.md R123, R127). -/
def zeroCount (len : Nat) : Nat := ((55 - (len : Int)) % 64).toNat

/-- `pad(M)`, the document's byte buffer (41_padder.md R127). -/
def paddedBytes (msg : List Byte) : List Byte :=
  msg ++ [0x80#8] ++ List.replicate (zeroCount msg.length) 0x00#8 ++
    lengthBytes (BitVec.ofNat 64 (8 * msg.length))

/-- `NB`, how many blocks a padded message has (41_padder.md R127). -/
def blockCount (msg : List Byte) : Nat := (paddedBytes msg).length / 64

/-- `W[n]`, a little-endian word of a byte sequence (41_padder.md R127). -/
def wordAt (bytes : List Byte) (n : Nat) : Word :=
  bytes.getD (4 * n + 3) 0 ++ bytes.getD (4 * n + 2) 0 ++ bytes.getD (4 * n + 1) 0 ++
    bytes.getD (4 * n) 0

/-- `block(q)` (41_padder.md R127). -/
def blockAt (bytes : List Byte) (q : Nat) : BitVec 4 → Word := fun k => wordAt bytes (16 * q + k.toNat)

/-- The chaining value after the first `n` blocks of a byte sequence (41_padder.md R127). -/
def chainAfter (bytes : List Byte) (n : Nat) : Chain :=
  (List.range n).foldl (fun st q => compressionFn st (blockAt bytes q)) initialChain

/-- `md5state(M)` (41_padder.md R127). -/
def md5State (msg : List Byte) : Chain := chainAfter (paddedBytes msg) (blockCount msg)

/-- `ENC(cp_0) ++ ENC(cp_1) ++ ...`, if every code point has an encoding (40_encoder.md R100). -/
def textBytes : List (BitVec 21) → Option (List Byte)
  | [] => some []
  | cp :: cps =>
    match utf8Bytes cp, textBytes cps with
    | some bs, some rest => some (bs ++ rest)
    | _, _ => none

/-- The characters of a digest (44_serializer.md R252). -/
def digestOf (st : Chain) : Vector Byte 32 := digestChars st.A st.B st.C st.D

/-- The commands of `HASH` of a text (30_encoding.md R81). -/
def hashCommands (cps : List (BitVec 21)) : List Instr := .init :: cps.map .putc ++ [.final]

/-- The word a command is sent as; the micro-operations are not sent (30_encoding.md R73). -/
def commandEvent (i : Instr) : Option Event :=
  match encode i with
  | .cmd32 w => some (.command w)
  | .step6 _ => none
  | .fsel2 _ => none
  | .rot5 _ => none

end Sys2Proof.Machine
end

