-- ==== Sys2Proof/Safety.lean ====
section
/-! DEFINITION. What counts as a good state and a good run, in the terms the statements use: the invariants
between commands (10_state.md R26, R27, R28), what an open message has absorbed (R28), the result of a run
(70_reset_and_hazards.md R325), and when two states agree on everything architectural. -/

namespace Sys2Proof.Machine

/-- The invariants of one state between commands (10_state.md R23, R26, R27, R28), and the canonical form of
the buffer (log entry 9). -/
structure State.Inv (s : State) : Prop where
  /-- The block buffer is in its canonical form. -/
  buf_wf : Memory.wf s.buf = true
  /-- `CAUSE != NONE` if and only if `PHASE = FAULT` (R26). -/
  cause_iff : s.cause ≠ .none ↔ s.phase = .fault
  /-- Outside `DONE` every `HEX[j]` is zero (R27). -/
  hex_zero : s.phase ≠ .done → s.hex = Vector.replicate 32 0x00#8
  /-- In `DONE` the registers `HEX` hold the digest of `A` to `D` (R28). -/
  hex_digest : s.phase = .done → s.hex = digestChars s.A s.B s.C s.D
  /-- In `DONE` the block is used up (R28). -/
  fill_done : s.phase = .done → s.fill = 0
  /-- In `ABSORB`, `FILL = NBYTES mod 64` (R28). -/
  fill_absorb : s.phase = .absorb → s.fill.toNat = s.nbytes.toNat % 64

/-- The open message of a state is `msg`: its length is counted, its whole blocks are compressed, and its rest
stands in the buffer (10_state.md R28). -/
structure State.Absorbed (msg : List Byte) (s : State) : Prop where
  phase_eq : s.phase = .absorb
  nbytes_eq : s.nbytes.toNat = msg.length % 2 ^ 61
  fill_eq : s.fill.toNat = msg.length % 64
  bytes_eq : ∀ j : BitVec 6, j.toNat < msg.length % 64 →
    readByte s j = msg.getD (64 * (msg.length / 64) + j.toNat) 0
  chain_eq : chainOf s = chainAfter msg (msg.length / 64)

/-- Two states agree on all architectural state (10_state.md section 2); hidden state may differ. -/
structure SameArch (s t : State) : Prop where
  A_eq : s.A = t.A
  B_eq : s.B = t.B
  C_eq : s.C = t.C
  D_eq : s.D = t.D
  buf_eq : s.buf = t.buf
  fill_eq : s.fill = t.fill
  nbytes_eq : s.nbytes = t.nbytes
  phase_eq : s.phase = t.phase
  cause_eq : s.cause = t.cause
  hex_eq : s.hex = t.hex

/-- The result of a run: the digest characters if the run ended in `DONE`, else nothing
(70_reset_and_hazards.md R325). -/
def runResult (s : State) : Option (Vector Byte 32) :=
  match s.phase with
  | .done => some s.hex
  | .absorb => none
  | .fault => none

end Sys2Proof.Machine
end

