-- ==== Sys2Proof/Certificates/Slice0/Obligations.lean ====
section
/-! DEFINITION. The statements for the provers, and the words they use. Arithmetic in the statements is on natural
numbers and on single bits, so that it does not repeat the model's definitions. -/

open Sys2Proof Sys2Proof.Machine

namespace Sys2Proof.Claims

/-- The word `X[k]` as the number its four bytes make, the lowest address least significant
(20_memory.md R52). -/
def blockWord (s : State) (k : Nat) : Nat :=
  (readByte s (BitVec.ofNat 6 (4 * k))).toNat + 2 ^ 8 * (readByte s (BitVec.ofNat 6 (4 * k + 1))).toNat +
    2 ^ 16 * (readByte s (BitVec.ofNat 6 (4 * k + 2))).toNat +
    2 ^ 24 * (readByte s (BitVec.ofNat 6 (4 * k + 3))).toNat

/-- One bit position of `F`, `G`, `H`, `I` (42_alu.md R145 to R148: "if `b` then `c` else `d`", "if `d` then `b`
else `c`", "the parity of the three bits", `c XOR (b OR NOT d)`). -/
def bitF (b c d : Bool) : Bool := if b then c else d
def bitG (b c d : Bool) : Bool := if d then b else c
def bitH (b c d : Bool) : Bool := xor (xor b c) d
def bitI (b c d : Bool) : Bool := xor c (b || !d)

/-- The bit function of a round (30_encoding.md R77). -/
def bitOfRound (r : Nat) : Bool → Bool → Bool → Bool :=
  if r = 0 then bitF else if r = 1 then bitG else if r = 2 then bitH else bitI

/-- What one step does, from its bit function, the index of its block word, its rotate amount and its constant:
the step formula, the exchange of registers, and nothing else but the step's own signals
(43_compress.md R166, R167). -/
def StepRule (g : Bool → Bool → Bool → Bool) (k amount const : Nat) (s t : State) : Prop :=
  ∃ f sum rot : Word,
    (∀ j < 32, f.getLsbD j = g (s.b.getLsbD j) (s.c.getLsbD j) (s.d.getLsbD j)) ∧
    sum.toNat = (s.a.toNat + f.toNat + blockWord s k + const) % 2 ^ 32 ∧
    (∀ j < 32, rot.getLsbD j = sum.getLsbD ((j + 32 - amount) % 32)) ∧
    t = { s with a := s.d, b := BitVec.ofNat 32 (s.b.toNat + rot.toNat), c := s.b, d := s.c,
                 f := f, sum := sum, rot := rot }

/-- A step's row: the instruction, `k`, `s` and `T[i]`. -/
structure StepRow where
  instr : Instr
  word : Nat
  amount : Nat
  const : Nat

/-- The rows of round 0, function `F`, as their rules write them (43_compress.md R172 to R187). -/
def round0Rows : List StepRow :=
  [⟨.f00, 0, 7, 0xd76aa478⟩, ⟨.f01, 1, 12, 0xe8c7b756⟩, ⟨.f02, 2, 17, 0x242070db⟩, ⟨.f03, 3, 22, 0xc1bdceee⟩,
   ⟨.f04, 4, 7, 0xf57c0faf⟩, ⟨.f05, 5, 12, 0x4787c62a⟩, ⟨.f06, 6, 17, 0xa8304613⟩, ⟨.f07, 7, 22, 0xfd469501⟩,
   ⟨.f08, 8, 7, 0x698098d8⟩, ⟨.f09, 9, 12, 0x8b44f7af⟩, ⟨.f10, 10, 17, 0xffff5bb1⟩, ⟨.f11, 11, 22, 0x895cd7be⟩,
   ⟨.f12, 12, 7, 0x6b901122⟩, ⟨.f13, 13, 12, 0xfd987193⟩, ⟨.f14, 14, 17, 0xa679438e⟩, ⟨.f15, 15, 22, 0x49b40821⟩]

/-- The rows of round 1, function `G`, as their rules write them (43_compress.md R188 to R203). -/
def round1Rows : List StepRow :=
  [⟨.g16, 1, 5, 0xf61e2562⟩, ⟨.g17, 6, 9, 0xc040b340⟩, ⟨.g18, 11, 14, 0x265e5a51⟩, ⟨.g19, 0, 20, 0xe9b6c7aa⟩,
   ⟨.g20, 5, 5, 0xd62f105d⟩, ⟨.g21, 10, 9, 0x02441453⟩, ⟨.g22, 15, 14, 0xd8a1e681⟩, ⟨.g23, 4, 20, 0xe7d3fbc8⟩,
   ⟨.g24, 9, 5, 0x21e1cde6⟩, ⟨.g25, 14, 9, 0xc33707d6⟩, ⟨.g26, 3, 14, 0xf4d50d87⟩, ⟨.g27, 8, 20, 0x455a14ed⟩,
   ⟨.g28, 13, 5, 0xa9e3e905⟩, ⟨.g29, 2, 9, 0xfcefa3f8⟩, ⟨.g30, 7, 14, 0x676f02d9⟩, ⟨.g31, 12, 20, 0x8d2a4c8a⟩]

/-- The rows of round 2, function `H`, as their rules write them (43_compress.md R204 to R219). -/
def round2Rows : List StepRow :=
  [⟨.h32, 5, 4, 0xfffa3942⟩, ⟨.h33, 8, 11, 0x8771f681⟩, ⟨.h34, 11, 16, 0x6d9d6122⟩, ⟨.h35, 14, 23, 0xfde5380c⟩,
   ⟨.h36, 1, 4, 0xa4beea44⟩, ⟨.h37, 4, 11, 0x4bdecfa9⟩, ⟨.h38, 7, 16, 0xf6bb4b60⟩, ⟨.h39, 10, 23, 0xbebfbc70⟩,
   ⟨.h40, 13, 4, 0x289b7ec6⟩, ⟨.h41, 0, 11, 0xeaa127fa⟩, ⟨.h42, 3, 16, 0xd4ef3085⟩, ⟨.h43, 6, 23, 0x04881d05⟩,
   ⟨.h44, 9, 4, 0xd9d4d039⟩, ⟨.h45, 12, 11, 0xe6db99e5⟩, ⟨.h46, 15, 16, 0x1fa27cf8⟩, ⟨.h47, 2, 23, 0xc4ac5665⟩]

/-- The rows of round 3, function `I`, as their rules write them (43_compress.md R220 to R235). -/
def round3Rows : List StepRow :=
  [⟨.i48, 0, 6, 0xf4292244⟩, ⟨.i49, 7, 10, 0x432aff97⟩, ⟨.i50, 14, 15, 0xab9423a7⟩, ⟨.i51, 5, 21, 0xfc93a039⟩,
   ⟨.i52, 12, 6, 0x655b59c3⟩, ⟨.i53, 3, 10, 0x8f0ccc92⟩, ⟨.i54, 10, 15, 0xffeff47d⟩, ⟨.i55, 1, 21, 0x85845dd1⟩,
   ⟨.i56, 8, 6, 0x6fa87e4f⟩, ⟨.i57, 15, 10, 0xfe2ce6e0⟩, ⟨.i58, 6, 15, 0xa3014314⟩, ⟨.i59, 13, 21, 0x4e0811a1⟩,
   ⟨.i60, 4, 6, 0xf7537e82⟩, ⟨.i61, 11, 10, 0xbd3af235⟩, ⟨.i62, 2, 15, 0x2ad7d2bb⟩, ⟨.i63, 9, 21, 0xeb86d391⟩]

/-- The message-word index of step `i` (43_compress.md R165). -/
def wordIndex (i : Nat) : Nat :=
  if i < 16 then i % 16
  else if i < 32 then (5 * (i % 16) + 1) % 16
  else if i < 48 then (3 * (i % 16) + 5) % 16
  else (7 * (i % 16)) % 16

/-- The shift amounts `S[r][q]` (43_compress.md R164). -/
def shiftAmount (r q : Nat) : Nat :=
  (([[7, 12, 17, 22], [5, 9, 14, 20], [4, 11, 16, 23], [6, 10, 15, 21]] : List (List Nat)).getD r []).getD q 0

/-- A scalar value (00_scope.md R19; 60_exceptions.md R291, the condition of `BADCP`, negated). -/
def IsScalar (cp : BitVec 21) : Prop :=
  cp.toNat < 0xD800 ∨ (0xDFFF < cp.toNat ∧ cp.toNat ≤ 0x10FFFF)

/-- The bytes of the open block followed by new ones: byte `j` counted from the start of the block. -/
def streamByte (s : State) (bs : List Byte) (j : Nat) : Byte :=
  if j < s.fill.toNat then readByte s (BitVec.ofNat 6 j) else bs.getD (j - s.fill.toNat) 0

/-- The sixteen words of a block given byte by byte (20_memory.md R52). -/
def blockOf (byte : Nat → Byte) : BitVec 4 → Word := fun k =>
  byte (4 * k.toNat + 3) ++ byte (4 * k.toNat + 2) ++ byte (4 * k.toNat + 1) ++ byte (4 * k.toNat)

/-- The last block of a message that has room for the length: the rest of the message, `0x80`, zeros, the
length (41_padder.md R122, R123). -/
def onlyPadByte (s : State) (j : Nat) : Byte :=
  if j < s.fill.toNat then readByte s (BitVec.ofNat 6 j)
  else if j = s.fill.toNat then 0x80#8
  else if j < 56 then 0x00#8
  else BitVec.ofNat 8 (8 * s.nbytes.toNat / 256 ^ (j - 56))

/-- The first of two padding blocks: the rest of the message, `0x80`, zeros (41_padder.md R123). -/
def firstPadByte (s : State) (j : Nat) : Byte :=
  if j < s.fill.toNat then readByte s (BitVec.ofNat 6 j) else if j = s.fill.toNat then 0x80#8 else 0x00#8

/-- The second of two padding blocks: zeros and the length (41_padder.md R123). -/
def secondPadByte (s : State) (j : Nat) : Byte :=
  if j < 56 then 0x00#8 else BitVec.ofNat 8 (8 * s.nbytes.toNat / 256 ^ (j - 56))

/-- What 10_state.md R27 says of `HEX`: in `DONE` the digest of `A` to `D`, each character a lowercase hex digit;
in the other phases zero. -/
def HexFollowsPhase (s : State) : Prop :=
  (s.phase = .done → s.hex = digestOf (chainOf s)) ∧
  (s.phase = .done → ∀ j, (0x30 ≤ (readHex s j).toNat ∧ (readHex s j).toNat ≤ 0x39) ∨
    (0x61 ≤ (readHex s j).toNat ∧ (readHex s j).toNat ≤ 0x66)) ∧
  (s.phase ≠ .done → ∀ j, readHex s j = 0x00#8)

/-- Thirty-two times `0x00`. -/
def noDigest : Vector Byte 32 := Vector.replicate 32 0x00#8

/-- The fields of a command word as numbers (30_encoding.md R72). -/
def opc (w : BitVec 32) : Nat := w.toNat / 2 ^ 24
def rsv (w : BitVec 32) : Nat := w.toNat / 2 ^ 21 % 8
def cpField (w : BitVec 32) : Nat := w.toNat % 2 ^ 21

/-- The words of 30_encoding.md R75 that are no command. -/
def Undecodable (w : BitVec 32) : Prop :=
  (opc w = 0 ∨ 4 ≤ opc w) ∨ ((1 ≤ opc w ∧ opc w ≤ 3) ∧ rsv w ≠ 0) ∨
    ((opc w = 1 ∨ opc w = 3) ∧ rsv w = 0 ∧ cpField w ≠ 0)

/-- The 69 micro-operations among the instructions (00_scope.md R17, R19). -/
def IsMicro (i : Instr) : Prop := i ≠ .init ∧ (∀ cp, i ≠ .putc cp) ∧ i ≠ .final

/-- The roles of the working registers in the fixed-register form: step `i` puts its `t` into the register that
plays `a`, and that register is `A'`, `D'`, `C'`, `B'` in turn (43_compress.md R167). -/
def fixedStep (x : BitVec 4 → Word) (w : Chain) (i : Nat) : Chain :=
  let t := fun a b c d => (cfStep x ⟨a, b, c, d⟩ (BitVec.ofNat 6 i)).B
  if i % 4 = 0 then ⟨t w.A w.B w.C w.D, w.B, w.C, w.D⟩
  else if i % 4 = 1 then ⟨w.A, w.B, w.C, t w.D w.A w.B w.C⟩
  else if i % 4 = 2 then ⟨w.A, w.B, t w.C w.D w.A w.B, w.D⟩
  else ⟨w.A, t w.B w.C w.D w.A, w.C, w.D⟩

/-- The 64 steps in the fixed-register form. -/
def fixedSteps (x : BitVec 4 → Word) (w : Chain) : Chain := (List.range 64).foldl (fixedStep x) w

/-- The machine after a number of steps, as the host runs it. -/
def after (n : Nat) (s : State) : Host.Outcome State Fault Refusal := Sys2Proof.core.run n s

end Sys2Proof.Claims

open Sys2Proof.Claims

-- Decoding, fetching and executing.

/-- Words written out from the spec's encodings decode to what they stand for (30_encoding.md R73, R76 to R78;
45_commands.md R277). -/
def Obligations.SpecWordsDecode : Prop :=
  decode (.cmd32 0x01000000#32) = .instr .init ∧
  decode (.cmd32 0x020020AC#32) = .instr (.putc 0x20AC#21) ∧
  decode (.cmd32 0x03000000#32) = .instr .final ∧
  decode (.cmd32 0x00000000#32) = .reject .reservedOpcode ∧
  decode (.cmd32 0x02200068#32) = .reject .reservedField ∧
  decode (.cmd32 0x01000001#32) = .reject .operandNotZero ∧
  decode (.step6 0b001101#6) = .instr .f13 ∧ decode (.step6 0b011110#6) = .instr .g30 ∧
  decode (.step6 0b100111#6) = .instr .h39 ∧ decode (.step6 0b111111#6) = .instr .i63 ∧
  decode (.fsel2 0b10#2) = .instr .fnH ∧ decode (.rot5 0b10111#5) = .instr (.rotl 23)

/-- The decoder sorts every 32-bit word into exactly the classes of 30_encoding.md R75, and outside `FAULT` a word
of the first three executes and a word of the others raises `ILLCMD`. -/
def Obligations.EveryWordHasItsClass : Prop :=
  ∀ w : BitVec 32,
    (decode (.cmd32 w) = .instr .init ↔ opc w = 1 ∧ rsv w = 0 ∧ cpField w = 0) ∧
    (∀ cp, decode (.cmd32 w) = .instr (.putc cp) ↔ opc w = 2 ∧ rsv w = 0 ∧ cp.toNat = cpField w) ∧
    (decode (.cmd32 w) = .instr .final ↔ opc w = 3 ∧ rsv w = 0 ∧ cpField w = 0) ∧
    (decode (.cmd32 w) = .reject .reservedOpcode ↔ opc w = 0 ∨ 4 ≤ opc w) ∧
    (decode (.cmd32 w) = .reject .reservedField ↔ (1 ≤ opc w ∧ opc w ≤ 3) ∧ rsv w ≠ 0) ∧
    (decode (.cmd32 w) = .reject .operandNotZero ↔ (opc w = 1 ∨ opc w = 3) ∧ rsv w = 0 ∧ cpField w ≠ 0) ∧
    ∀ (s : State) (rest : List Event), s.pending = .command w :: rest → s.phase ≠ .fault →
      (∀ i, decode (.cmd32 w) = .instr i → step s = exec i { s with pending := rest }) ∧
      (∀ why, decode (.cmd32 w) = .reject why → step s = .next (raise .illcmd { s with pending := rest }))

/-- A word is a command when its masked bits match the command's row, the operand of `PUTC` is its field, and the
all-zero word is no command (30_encoding.md R73). -/
def Obligations.MaskAndMatchSelectTheCommand : Prop :=
  ∀ w : BitVec 32,
    (decode (.cmd32 w) = .instr .init ↔ w &&& 0xFFFFFFFF#32 = 0x01000000#32) ∧
    ((∃ cp, decode (.cmd32 w) = .instr (.putc cp)) ↔ w &&& 0xFFE00000#32 = 0x02000000#32) ∧
    (decode (.cmd32 w) = .instr .final ↔ w &&& 0xFFFFFFFF#32 = 0x03000000#32) ∧
    (∀ cp, decode (.cmd32 w) = .instr (.putc cp) → opc w = 2 ∧ cp.toNat = cpField w) ∧
    ∃ why, decode (.cmd32 0x00000000#32) = .reject why

/-- No bit of an encoding is dropped: every instruction, with every operand, decodes back from its encoding. -/
def Obligations.EncodingDecodesBack : Prop :=
  ∀ i : Instr, decode (encode i) = .instr i

/-- Each encoding has one meaning: what decodes to an instruction is that instruction's encoding. -/
def Obligations.DecodedWordIsItsEncoding : Prop :=
  ∀ (e : Encoding) (i : Instr), decode e = .instr i → encode i = e

/-- One step with a command word at the port: ignored in `FAULT`; else `ILLCMD` if it does not decode; else `SEQ`
for `PUTC` and `FINAL` in `DONE`; else the command, whose `PUTC` may raise `BADCP`; a fault is raised on the state
the command found (45_commands.md R265). Nothing else is done around it: the event is taken from the pending ones,
the model's own input (log entry 1). -/
def Obligations.StepExecutesTheCommandWord : Prop :=
  ∀ (s : State) (w : BitVec 32) (rest : List Event), s.pending = .command w :: rest →
    (s.phase = .fault → step s = .next { s with pending := rest }) ∧
    (s.phase ≠ .fault →
      (∀ why, decode (.cmd32 w) = .reject why → step s = .next (raise .illcmd { s with pending := rest })) ∧
      (∀ i, decode (.cmd32 w) = .instr i → step s = exec i { s with pending := rest }) ∧
      (∀ i, decode (.cmd32 w) = .instr i → (i = .final ∨ ∃ cp, i = .putc cp) → s.phase = .done →
        step s = .next (raise .seq { s with pending := rest })) ∧
      (∀ cp, decode (.cmd32 w) = .instr (.putc cp) → s.phase = .absorb → ¬ IsScalar cp →
        step s = .next (raise .badcp { s with pending := rest })))

/-- One step with a micro-operation: a step event runs the instruction the index `I` decodes to and moves the
index (not after 63), a select or an amount runs the instruction it decodes to, a load starts a `COMPRESS`;
with no event the state is held. The events are the model's own (log entries 1 and 2). -/
def Obligations.StepRunsTheMicroOperation : Prop :=
  ∀ (s : State) (rest : List Event),
    (s.pending = [] → step s = .next s) ∧
    (s.pending = .step :: rest → ∀ t, exec (decodeStep s.I) { s with pending := rest } = .next t →
      step s = .next { t with I := if s.I = 63 then 63 else s.I + 1 }) ∧
    (∀ fsel, s.pending = .select fsel :: rest → step s = exec (decodeSelect fsel) { s with pending := rest }) ∧
    (∀ n, s.pending = .rotate n :: rest → step s = exec (.rotl n) { s with pending := rest }) ∧
    (s.pending = .load :: rest → step s =
      .next { s with a := s.A, b := s.B, c := s.C, d := s.D, I := 0, pending := rest })

/-- What is placed where the step fetches is what the next step runs (the model's own placing, log entry 1). -/
def Obligations.PlacedInstructionRunsNext : Prop :=
  ∀ (s : State) (i : Instr) (w : Nat),
    (decodeTableWord 32 w = some i → s.phase ≠ .fault → step (s.withFetchWord 32 w) = exec i s) ∧
    (decodeTableWord 6 w = some i →
      step (s.withFetchWord 6 w) = afterStep (exec i { s with I := BitVec.ofNat 6 w })) ∧
    (decodeTableWord 2 w = some i → step (s.withFetchWord 2 w) = exec i s) ∧
    (decodeTableWord 5 w = some i → step (s.withFetchWord 5 w) = exec i s)

/-- No step of the machine stops: every state, also one no run reaches, has a next state. -/
def Obligations.EveryStepAnswersANextState : Prop :=
  (∀ s : State, ∃ t, step s = .next t) ∧ (∀ (i : Instr) (s : State), ∃ t, exec i s = .next t)

-- Reset.

/-- The architectural state right after reset; an `INIT` leaves it, and no `INIT` executes while `CAUSE` is not
`NONE` (10_state.md R35). -/
def Obligations.ResetStateIsTheSpecs : Prop :=
  chainOf State.reset = ⟨0x67452301#32, 0xefcdab89#32, 0x98badcfe#32, 0x10325476#32⟩ ∧
  (∀ k, readWord State.reset k = 0x00000000#32) ∧ State.reset.fill = 0 ∧ State.reset.nbytes = 0 ∧
  State.reset.phase = .absorb ∧ State.reset.cause = .none ∧ statusByte State.reset = 0x00#8 ∧
  (∀ j, readHex State.reset j = 0x00#8) ∧
  (∃ t, exec .init State.reset = .next t ∧ SameArch t State.reset) ∧
  ∀ s : State, s.Inv → s.cause ≠ .none → exec .init s = .next s

/-- The `RESET` event gives the reset values in every phase, and nothing else leaves `FAULT`
(70_reset_and_hazards.md R320). -/
def Obligations.ResetActsInEveryPhase : Prop :=
  (∀ (s : State) (rest : List Event), s.pending = .reset :: rest →
    ∃ t, step s = .next t ∧ chainOf t = ⟨0x67452301#32, 0xefcdab89#32, 0x98badcfe#32, 0x10325476#32⟩ ∧
      Memory.wf t.buf = true ∧ (∀ k, readWord t k = 0x00000000#32) ∧ t.fill = 0 ∧ t.nbytes = 0 ∧
      t.phase = .absorb ∧ t.cause = .none ∧ (∀ j, readHex t j = 0x00#8) ∧ SameArch t State.reset ∧
      t.pending = rest) ∧
  (∀ s t : State, step s = .next t → s.phase = .fault → t.phase ≠ .fault →
    ∃ rest, s.pending = .reset :: rest)

-- Invariants of the whole machine.

/-- The reset state meets the invariants. -/
def Obligations.ResetStateMeetsTheInvariants : Prop := State.reset.Inv

/-- Every step keeps the invariants of 10_state.md R26 to R28: the buffer's canonical form, `CAUSE` against
`PHASE`, `HEX` zero or the digest, `FILL` against `NBYTES`. -/
def Obligations.EveryStepKeepsTheInvariants : Prop :=
  ∀ s t : State, s.Inv → step s = .next t → t.Inv

/-- The open message invariant: after a `PUTC` the machine has absorbed the longer message, with its blocks
compressed, its rest in the buffer and its length counted (10_state.md R28; 41_padder.md R128). -/
def Obligations.PutcExtendsTheAbsorbedMessage : Prop :=
  ∀ (s : State) (msg bs : List Byte) (cp : BitVec 21),
    Memory.wf s.buf = true → s.Absorbed msg → utf8Bytes cp = some bs →
    ∃ t, exec (.putc cp) s = .next t ∧ Memory.wf t.buf = true ∧ t.Absorbed (msg ++ bs)

/-- `HASH` of any text of scalar values, from any state not in `FAULT`: the run ends in `DONE` with the
characters of the digest of the text's bytes (45_commands.md R272). -/
def Obligations.HashDeliversTheDigestOfAnyText : Prop :=
  ∀ (s : State) (cps : List (BitVec 21)) (msg : List Byte),
    s.phase ≠ .fault → textBytes cps = some msg → s.pending = (hashCommands cps).filterMap commandEvent →
    ∃ t, after (cps.length + 2) s = .next t ∧ t.phase = .done ∧ t.pending = [] ∧
      t.hex = digestOf (md5State msg) ∧ runResult t = some (digestOf (md5State msg))

/-- A text has bytes exactly if its code points are scalar values, so the statement above leaves out no such text;
and its bytes are those of its code points, in order (40_encoder.md R100; 60_exceptions.md R291). The ranges and the
layouts of the bytes are "[from general knowledge, not in source]" in 40_encoder.md R101. -/
def Obligations.ScalarTextsHaveBytes : Prop :=
  (∀ cps : List (BitVec 21), (∀ cp ∈ cps, IsScalar cp) ↔ ∃ msg, textBytes cps = some msg) ∧
  ∀ (cps : List (BitVec 21)) (msg : List Byte), textBytes cps = some msg →
    ∃ parts : List (List Byte), cps.map utf8Bytes = parts.map some ∧ msg = parts.flatten

/-- Hidden state never reaches architectural state: two machines that agree on the architectural state and on what
is to come agree after every step (10_state.md R29 to R31). -/
def Obligations.HiddenStateNeverReachesArchitecture : Prop :=
  ∀ s s' : State, SameArch s s' → s.pending = s'.pending →
    ∃ t t', step s = .next t ∧ step s' = .next t' ∧ SameArch t t' ∧ t.pending = t'.pending

/-- `A` to `D` change only by reset, `INIT`, a `PUTC` that fills the block, or `FINAL` (10_state.md R21). -/
def Obligations.ChainingStateChangesOnlyWithABlock : Prop :=
  ∀ s t : State, step s = .next t → chainOf t ≠ chainOf s →
    ∃ rest, s.pending = .reset :: rest ∨
      ∃ w, s.pending = .command w :: rest ∧ s.phase ≠ .fault ∧
        (decode (.cmd32 w) = .instr .init ∨ decode (.cmd32 w) = .instr .final ∨
          ∃ cp bs, decode (.cmd32 w) = .instr (.putc cp) ∧ utf8Bytes cp = some bs ∧
            64 ≤ s.fill.toNat + bs.length)

/-- `FINAL` in an open message is the only event that makes `HEX` non-zero (45_commands.md R271). -/
def Obligations.OnlyFinalMakesHexNonZero : Prop :=
  ∀ s t : State, step s = .next t → s.hex = noDigest → t.hex ≠ noDigest →
    s.phase = .absorb ∧ ∃ rest, s.pending = .command 0x03000000#32 :: rest

/-- A digest is visible exactly in `DONE`, after reset and after every step: there `HEX` is the digest of `A` to `D`
and every `HEX[j]` is a lowercase hex digit, in `ABSORB` and `FAULT` every `HEX[j]` is zero (10_state.md R27). The
premise is on the state before the step and says nothing of the state after it. -/
def Obligations.HexIsADigestExactlyInDone : Prop :=
  HexFollowsPhase State.reset ∧ ∀ s t : State, s.Inv → step s = .next t → HexFollowsPhase t

-- Commands.

/-- `INIT`: its writes in `ABSORB` and `DONE` and its frame, over the architectural state and what is pending;
nothing in `FAULT`; it raises nothing (45_commands.md R266). -/
def Obligations.InitOpensAMessage : Prop :=
  decode (.cmd32 0x01000000#32) = .instr .init ∧
  (∀ w, opc w = 1 → rsv w ≠ 0 ∨ cpField w ≠ 0 → ∃ why, decode (.cmd32 w) = .reject why) ∧
  (∀ s : State, s.phase ≠ .fault → ∃ t, exec .init s = .next t ∧
    chainOf t = ⟨0x67452301#32, 0xefcdab89#32, 0x98badcfe#32, 0x10325476#32⟩ ∧
    Memory.wf t.buf = true ∧ (∀ k, readWord t k = 0x00000000#32) ∧ t.fill = 0 ∧ t.nbytes = 0 ∧
    t.hex = noDigest ∧ t.phase = .absorb ∧ t.cause = s.cause ∧ t.pending = s.pending) ∧
  (∀ s : State, s.phase = .fault → exec .init s = .next s) ∧
  (∀ s : State, s.Inv → s.phase = .done → ∃ t, exec .init s = .next t ∧ SameArch t State.reset)

/-- `PUTC cp`: what it absorbs, counts and compresses for a scalar value in `ABSORB`, with its frame; `SEQ` in
`DONE`; `BADCP` for the other operands; nothing in `FAULT` (45_commands.md R268). A byte of the buffer changes
only where a byte of the code point is stored: from `FILL` on, and from 0 on after the block is full. -/
def Obligations.PutcAppendsItsBytes : Prop :=
  (∀ cp : BitVec 21, decode (.cmd32 (0x02000000#32 + cp.setWidth 32)) = .instr (.putc cp)) ∧
  (∀ w, opc w = 2 → rsv w ≠ 0 → ∃ why, decode (.cmd32 w) = .reject why) ∧
  (∀ (s : State) (cp : BitVec 21), Memory.wf s.buf = true → s.phase = .absorb → IsScalar cp →
    ∃ t bs, utf8Bytes cp = some bs ∧ exec (.putc cp) s = .next t ∧
      t.phase = .absorb ∧ t.cause = s.cause ∧ t.hex = s.hex ∧ t.pending = s.pending ∧
      t.nbytes.toNat = (s.nbytes.toNat + bs.length) % 2 ^ 61 ∧
      t.fill.toNat = (s.fill.toNat + bs.length) % 64 ∧
      chainOf t = (if s.fill.toNat + bs.length < 64 then chainOf s
        else compressionFn (chainOf s) (blockOf (streamByte s bs))) ∧
      ∀ addr : BitVec 6, readByte t addr =
        if s.fill.toNat ≤ addr.toNat ∧ addr.toNat < s.fill.toNat + bs.length then
          bs.getD (addr.toNat - s.fill.toNat) 0
        else if addr.toNat + 64 < s.fill.toNat + bs.length then bs.getD (addr.toNat + 64 - s.fill.toNat) 0
        else readByte s addr) ∧
  (∀ (s : State) (cp : BitVec 21), s.phase = .absorb → ¬ IsScalar cp →
    exec (.putc cp) s = .next (raise .badcp s)) ∧
  (∀ (s : State) (cp : BitVec 21), s.phase = .done → exec (.putc cp) s = .next (raise .seq s)) ∧
  (∀ (s : State) (cp : BitVec 21), s.phase = .fault → exec (.putc cp) s = .next s)

/-- `FINAL`: one padding block if the block has room for the length, else two; the digest of the chaining state,
phase `DONE`, `FILL` 0, the last block in the buffer; `SEQ` in `DONE`, nothing in `FAULT` (45_commands.md
R270). -/
def Obligations.FinalClosesTheMessage : Prop :=
  decode (.cmd32 0x03000000#32) = .instr .final ∧
  (∀ w, opc w = 3 → rsv w ≠ 0 ∨ cpField w ≠ 0 → ∃ why, decode (.cmd32 w) = .reject why) ∧
  (∀ s : State, Memory.wf s.buf = true → s.phase = .absorb →
    ∃ t, exec .final s = .next t ∧
      t.phase = .done ∧ t.cause = s.cause ∧ t.pending = s.pending ∧ t.nbytes = s.nbytes ∧ t.fill = 0 ∧
      t.hex = digestOf (chainOf t) ∧
      (s.fill.toNat ≤ 55 →
        chainOf t = compressionFn (chainOf s) (blockOf (onlyPadByte s)) ∧
        ∀ addr : BitVec 6, readByte t addr = onlyPadByte s addr.toNat) ∧
      (56 ≤ s.fill.toNat →
        chainOf t = compressionFn (compressionFn (chainOf s) (blockOf (firstPadByte s)))
          (blockOf (secondPadByte s)) ∧
        ∀ addr : BitVec 6, readByte t addr = secondPadByte s addr.toNat)) ∧
  (∀ s : State, s.phase = .done → exec .final s = .next (raise .seq s)) ∧
  (∀ s : State, s.phase = .fault → exec .final s = .next s)

/-- What a message was before `INIT` leaves no trace: two states outside `FAULT` have the same architectural state
after it, if no fault stands in their cause (45_commands.md R267). -/
def Obligations.InitForgetsTheOpenMessage : Prop :=
  ∀ s s' : State, s.Inv → s'.Inv → s.phase ≠ .fault → s'.phase ≠ .fault →
    ∃ t t', exec .init s = .next t ∧ exec .init s' = .next t' ∧ SameArch t t'

-- Faults and phases.

/-- The effect of a fault on the architectural state and on what is pending (60_exceptions.md R293): of `raise`, and
of every command word that faults. -/
def Obligations.RaiseWritesPhaseCauseAndHex : Prop :=
  (∀ (c : Cause) (s : State), (raise c s).phase = .fault ∧ (raise c s).cause = c ∧
    (∀ j, readHex (raise c s) j = 0x00#8) ∧
    chainOf (raise c s) = chainOf s ∧ (raise c s).buf = s.buf ∧ (raise c s).fill = s.fill ∧
    (raise c s).nbytes = s.nbytes ∧ (raise c s).pending = s.pending) ∧
  (∀ (s t : State) (w : BitVec 32) (rest : List Event), s.pending = .command w :: rest → s.phase ≠ .fault →
    step s = .next t → t.phase = .fault →
    t.cause ≠ .none ∧ (∀ j, readHex t j = 0x00#8) ∧ chainOf t = chainOf s ∧ t.buf = s.buf ∧ t.fill = s.fill ∧
      t.nbytes = s.nbytes ∧ t.pending = rest)

/-- In `FAULT` every command word is ignored, legal or not, and nothing but `RESET` leaves the phase
(60_exceptions.md R294). -/
def Obligations.FaultIsStickyUntilReset : Prop :=
  ∀ s : State, s.phase = .fault →
    (∀ (w : BitVec 32) (rest : List Event), s.pending = .command w :: rest →
      step s = .next { s with pending := rest }) ∧
    (∀ t : State, step s = .next t → (∀ rest, s.pending ≠ .reset :: rest) →
      t.phase = .fault ∧ t.cause = s.cause) ∧
    (∀ rest, s.pending = .reset :: rest → ∃ t, step s = .next t ∧ t.phase = .absorb ∧ t.cause = .none)

/-- The cause a command word leaves, from the conditions of the table: `ILLCMD`, then `SEQ`, then `BADCP`, the
first that holds; no other condition raises a fault; a fault is raised before anything is written and records only
its cause; the cause is `NONE` outside `FAULT` (60_exceptions.md R291, R292: "before the command writes any state";
that this holds of the hidden registers too is log entry 5). -/
def Obligations.CauseIsTheFirstConditionMet : Prop :=
  ∀ (s t : State) (w : BitVec 32) (rest : List Event), s.pending = .command w :: rest → s.phase ≠ .fault →
    step s = .next t →
    (Undecodable w → t.phase = .fault ∧ t.cause = .illcmd) ∧
    (¬ Undecodable w → (opc w = 2 ∨ opc w = 3) ∧ s.phase = .done → t.phase = .fault ∧ t.cause = .seq) ∧
    (¬ Undecodable w → ¬ ((opc w = 2 ∨ opc w = 3) ∧ s.phase = .done) →
      opc w = 2 ∧ ¬ IsScalar (BitVec.ofNat 21 (cpField w)) → t.phase = .fault ∧ t.cause = .badcp) ∧
    (¬ Undecodable w → ¬ ((opc w = 2 ∨ opc w = 3) ∧ s.phase = .done) →
      ¬ (opc w = 2 ∧ ¬ IsScalar (BitVec.ofNat 21 (cpField w))) → t.phase ≠ .fault ∧ t.cause = s.cause) ∧
    (t.phase = .fault → t = raise t.cause { s with pending := rest }) ∧
    (s.Inv → s.cause = .none)

/-- The phase after each event in each phase (45_commands.md R273). -/
def Obligations.PhaseTransitionsAreComplete : Prop :=
  ∀ (s t : State) (e : Event) (rest : List Event), s.pending = e :: rest → step s = .next t →
    (e = .reset → t.phase = .absorb) ∧
    (∀ w, e = .command w → s.phase = .fault → t.phase = .fault) ∧
    (∀ w, e = .command w → s.phase ≠ .fault → decode (.cmd32 w) = .instr .init → t.phase = .absorb) ∧
    (∀ w cp, e = .command w → s.phase = .absorb → decode (.cmd32 w) = .instr (.putc cp) → IsScalar cp →
      t.phase = .absorb) ∧
    (∀ w cp, e = .command w → s.phase = .absorb → decode (.cmd32 w) = .instr (.putc cp) → ¬ IsScalar cp →
      t.phase = .fault ∧ t.cause = .badcp) ∧
    (∀ w cp, e = .command w → s.phase = .done → decode (.cmd32 w) = .instr (.putc cp) →
      t.phase = .fault ∧ t.cause = .seq) ∧
    (∀ w, e = .command w → s.phase = .absorb → decode (.cmd32 w) = .instr .final → t.phase = .done) ∧
    (∀ w, e = .command w → s.phase = .done → decode (.cmd32 w) = .instr .final →
      t.phase = .fault ∧ t.cause = .seq) ∧
    (∀ w why, e = .command w → s.phase ≠ .fault → decode (.cmd32 w) = .reject why →
      t.phase = .fault ∧ t.cause = .illcmd) ∧
    (e = .load ∨ e = .step ∨ (∃ fsel, e = .select fsel) ∨ (∃ n, e = .rotate n) → t.phase = s.phase)

/-- The `STATUS` register: `PHASE` in bits 1:0, never 3, `CAUSE` in bits 3:2, bits 7:4 zero
(10_state.md R25). -/
def Obligations.StatusBitsAreTheSpecs : Prop :=
  ∀ s : State,
    (statusByte s).toNat % 4 = (match s.phase with | .absorb => 0 | .done => 1 | .fault => 2) ∧
    (statusByte s).toNat / 4 % 4 =
      (match s.cause with | .none => 0 | .illcmd => 1 | .seq => 2 | .badcp => 3) ∧
    (statusByte s).toNat / 16 = 0

-- Micro-operations.

/-- The sixteen steps of round 0. The exchange of registers is from general knowledge in the spec
(43_compress.md R167: "This is [from general knowledge, not in source]"), as are `k` and `s` (R164, R165); that
the signals `f`, `sum`, `rot` keep the step's values is the model's choice (log entry 7). -/
def Obligations.RoundZeroStepsFollowTheirRows : Prop :=
  ∀ r ∈ round0Rows, ∀ s : State,
    ∃ t, exec r.instr s = .next t ∧ StepRule bitF r.word r.amount r.const s t

/-- The sixteen steps of round 1; the same of what they rest on. -/
def Obligations.RoundOneStepsFollowTheirRows : Prop :=
  ∀ r ∈ round1Rows, ∀ s : State,
    ∃ t, exec r.instr s = .next t ∧ StepRule bitG r.word r.amount r.const s t

/-- The sixteen steps of round 2; the same of what they rest on. -/
def Obligations.RoundTwoStepsFollowTheirRows : Prop :=
  ∀ r ∈ round2Rows, ∀ s : State,
    ∃ t, exec r.instr s = .next t ∧ StepRule bitH r.word r.amount r.const s t

/-- The sixteen steps of round 3; the same of what they rest on. -/
def Obligations.RoundThreeStepsFollowTheirRows : Prop :=
  ∀ r ∈ round3Rows, ∀ s : State,
    ∃ t, exec r.instr s = .next t ∧ StepRule bitI r.word r.amount r.const s t

/-- The 64 rows are the template at the tables: the step the index selects has the function of its round, the word
index, the shift and the constant the tables give (43_compress.md R163 to R166; the tables' provenance as
above). -/
def Obligations.EveryStepIsTheTemplateAtItsIndex : Prop :=
  ∀ (i : BitVec 6) (s : State), ∃ t, exec (decodeStep i) s = .next t ∧
    StepRule (bitOfRound (i.toNat / 16)) (wordIndex i.toNat) (shiftAmount (i.toNat / 16) (i.toNat % 4))
      (stepConst i).toNat s t

/-- The additive constants are the table of the formula `floor(2^32 * abs(sin(i + 1)))`, in radians
(43_compress.md R163). -/
def Obligations.AdditiveConstantsAreTheSineTable : Prop :=
  ∀ i : BitVec 6, ((stepConst i).toNat : Int) = ⌊(2 : Real) ^ 32 * |Real.sin ((i.toNat : Real) + 1)|⌋

/-- Within each round every word of the block is used exactly once (43_compress.md R165). -/
def Obligations.EachRoundUsesEveryWordOnce : Prop :=
  ∀ (r : BitVec 2) (k : BitVec 4), ∃ p : BitVec 4, stepWord (r ++ p) = k ∧
    ∀ p' : BitVec 4, stepWord (r ++ p') = k → p' = p

/-- The evaluator's four selects and the rotator complete from every state, with their result in the signal the
step uses (the operands and results of a run on their own are the model's reading, log entry 6). -/
def Obligations.EvaluatorAndRotatorComplete : Prop :=
  ∀ s : State,
    (∃ v, exec .fnF s = .next { s with f := v } ∧
      ∀ j < 32, v.getLsbD j = bitF (s.b.getLsbD j) (s.c.getLsbD j) (s.d.getLsbD j)) ∧
    (∃ v, exec .fnG s = .next { s with f := v } ∧
      ∀ j < 32, v.getLsbD j = bitG (s.b.getLsbD j) (s.c.getLsbD j) (s.d.getLsbD j)) ∧
    (∃ v, exec .fnH s = .next { s with f := v } ∧
      ∀ j < 32, v.getLsbD j = bitH (s.b.getLsbD j) (s.c.getLsbD j) (s.d.getLsbD j)) ∧
    (∃ v, exec .fnI s = .next { s with f := v } ∧
      ∀ j < 32, v.getLsbD j = bitI (s.b.getLsbD j) (s.c.getLsbD j) (s.d.getLsbD j)) ∧
    ∀ n : BitVec 5, ∃ v, exec (.rotl n) s = .next { s with rot := v } ∧
      ∀ j < 32, v.getLsbD j = s.sum.getLsbD ((j + 32 - n.toNat) % 32)

/-- No micro-operation writes architectural state, the packer's latch, the step index or the model's own fields,
and every byte of the buffer reads as before (43_compress.md R166; 42_alu.md R140). -/
def Obligations.MicroOperationsKeepArchitecture : Prop :=
  ∀ (i : Instr) (s : State), IsMicro i → ∃ t, exec i s = .next t ∧ SameArch t s ∧
    t.encb = s.encb ∧ t.encn = s.encn ∧ t.I = s.I ∧ t.epoch = s.epoch ∧ t.pending = s.pending ∧
    ∀ addr, readByte t addr = readByte s addr

/-- The four functions act on each bit position alone, by the truth table of each; the select names them
(42_alu.md R144 to R148). -/
def Obligations.BooleanFunctionsBitByBit : Prop :=
  ∀ b c d : Word,
    (∀ j < 32, (evalFn 0b00#2 b c d).getLsbD j = bitF (b.getLsbD j) (c.getLsbD j) (d.getLsbD j)) ∧
    (∀ j < 32, (evalFn 0b01#2 b c d).getLsbD j = bitG (b.getLsbD j) (c.getLsbD j) (d.getLsbD j)) ∧
    (∀ j < 32, (evalFn 0b10#2 b c d).getLsbD j = bitH (b.getLsbD j) (c.getLsbD j) (d.getLsbD j)) ∧
    (∀ j < 32, (evalFn 0b11#2 b c d).getLsbD j = bitI (b.getLsbD j) (c.getLsbD j) (d.getLsbD j)) ∧
    evalFn 0b00#2 = funF ∧ evalFn 0b01#2 = funG ∧ evalFn 0b10#2 = funH ∧ evalFn 0b11#2 = funI

/-- The rotator: bit `j` of the result is bit `(j - s) mod 32` of the operand, the shift-and-or formula for 1 to
31, the identity for 0, and rotating on by `32 - s` gives the operand back (42_alu.md R143). -/
def Obligations.RotateLeftIsCircular : Prop :=
  ∀ (x : Word) (s : BitVec 5),
    (∀ j < 32, (rotl32 x s).getLsbD j = x.getLsbD ((j + 32 - s.toNat) % 32)) ∧
    rotl32 x 0 = x ∧
    (s ≠ 0 → (rotl32 x s).toNat = (x.toNat * 2 ^ s.toNat) % 2 ^ 32 + x.toNat / 2 ^ (32 - s.toNat)) ∧
    (s ≠ 0 → rotl32 (rotl32 x s) (BitVec.ofNat 5 (32 - s.toNat)) = x) ∧
    rotl32 0 s = 0 ∧ rotl32 0xFFFFFFFF#32 s = 0xFFFFFFFF#32

/-- The adder wraps modulo 2^32, so a sum may be formed in any order; the complement is `0xFFFFFFFF - x`
(42_alu.md R141, R142). -/
def Obligations.AdderWrapsAndComplementStays : Prop :=
  ∀ x y z : Word,
    (add32 x y).toNat = (x.toNat + y.toNat) % 2 ^ 32 ∧ add32 x y = add32 y x ∧
    (add32 (add32 x y) z).toNat = (x.toNat + y.toNat + z.toNat) % 2 ^ 32 ∧
    add32 (add32 x y) z = add32 x (add32 y z) ∧
    (not32 x).toNat = 0xFFFFFFFF - x.toNat

/-- `COMPRESS` performs `(A, B, C, D) <- CF((A, B, C, D), X)`, ends with the step index at 63, and leaves the
buffer and every other register that is not its own (43_compress.md R161, R162). -/
def Obligations.CompressIsTheCompressionFunction : Prop :=
  ∀ s : State,
    chainOf (compress s) = compressionFn (chainOf s) (readWord s) ∧
    workingOf (compress s) = cfSteps (readWord s) (chainOf s) 64 ∧ (compress s).I = 63 ∧
    compress s = { s with
      A := (compress s).A, B := (compress s).B, C := (compress s).C, D := (compress s).D
      a := (compress s).a, b := (compress s).b, c := (compress s).c, d := (compress s).d
      I := (compress s).I, f := (compress s).f, sum := (compress s).sum, rot := (compress s).rot }

/-- The two levels agree: a load and 64 step events, each running the row its index decodes to, then the
feed-forward, is `COMPRESS` (00_scope.md R17; 43_compress.md R161; 30_encoding.md R76). The events are the model's
own (log entries 1 and 2): the hardware takes these steps only inside a command. -/
def Obligations.SixtyFourStepEventsAreACompress : Prop :=
  ∀ (s : State) (rest : List Event), s.pending = .load :: List.replicate 64 .step ++ rest →
    ∃ t, after 65 s = .next t ∧ t.pending = rest ∧ feedForward t = { compress s with pending := rest }

/-- The fixed-register form of the 64 steps gives the same four values as the exchange of registers
(43_compress.md R167, an equivalence the spec marks as derived). -/
def Obligations.FixedRegisterFormIsEquivalent : Prop :=
  ∀ (x : BitVec 4 → Word) (w : Chain), fixedSteps x w = cfSteps x w 64

-- The block buffer, the padder, the packer and the serializer.

/-- A word is its four bytes, the lowest address least significant; a byte is its slice of the word
(20_memory.md R52). -/
def Obligations.WordsAreLittleEndian : Prop :=
  ∀ s : State,
    (∀ k : BitVec 4, (readWord s k).toNat = blockWord s k.toNat) ∧
    (∀ addr : BitVec 6, (readByte s addr).toNat =
      (readWord s (BitVec.ofNat 4 (addr.toNat / 4))).toNat / 2 ^ (8 * (addr.toNat % 4)) % 256)

/-- A byte write replaces one slice of one word and leaves the other 24 bits and all other words
(20_memory.md R53). -/
def Obligations.ByteWriteReplacesOneSlice : Prop :=
  ∀ (s : State) (addr : BitVec 6) (v : Byte), Memory.wf s.buf = true →
    Memory.wf (writeByte s addr v).buf = true ∧
    ∀ k : BitVec 4, readWord (writeByte s addr v) k =
      if k.toNat = addr.toNat / 4 then
        (readWord s k &&& not32 (0xFF#32 <<< (8 * (addr.toNat % 4)))) |||
          (v.setWidth 32 <<< (8 * (addr.toNat % 4)))
      else readWord s k

/-- `ABSORB`: the byte goes to address `FILL`; a full block is compressed with all 64 bytes in it and `FILL` starts
over; `NBYTES` and the host's registers stay (41_padder.md R121). -/
def Obligations.AbsorbPlacesOneByte : Prop :=
  ∀ (s : State) (v : Byte), Memory.wf s.buf = true →
    (∀ addr, readByte (absorb v s) addr = if addr = s.fill then v else readByte s addr) ∧
    (absorb v s).fill.toNat = (if s.fill.toNat = 63 then 0 else s.fill.toNat + 1) ∧
    chainOf (absorb v s) = (if s.fill.toNat = 63 then
        compressionFn (chainOf s) (blockOf (fun j => if j = 63 then v else readByte s (BitVec.ofNat 6 j)))
      else chainOf s) ∧
    (absorb v s).nbytes = s.nbytes ∧ (absorb v s).phase = s.phase ∧ (absorb v s).cause = s.cause ∧
    (absorb v s).hex = s.hex

/-- `PAD` absorbs `0x80`, `(55 - FILL) mod 64` zeros and the eight bytes of the length, and ends with `FILL` 0
(41_padder.md R122, R123, the count of zeros being derived there). -/
def Obligations.PadAppendsZerosAndLength : Prop :=
  ∀ s : State,
    pad s = absorbAll (0x80#8 :: List.replicate (zeroCount s.fill.toNat) 0x00#8 ++ lengthBytes (lengthField s)) s ∧
    (pad s).fill = 0 ∧ (s.fill.toNat + 1 + zeroCount s.fill.toNat + 8) % 64 = 0

/-- The length field is `(8 * L) mod 2^64`, whatever the counter has wrapped, and stands in the last block as
`X[14]` (low half) and `X[15]` (high half) (41_padder.md R125). -/
def Obligations.LengthFieldIsEightTimesTheLength : Prop :=
  (∀ (s : State) (len : Nat), s.nbytes.toNat = len % 2 ^ 61 → (lengthField s).toNat = (8 * len) % 2 ^ 64) ∧
  (∀ s : State, Memory.wf s.buf = true →
    (readWord (pad s) 14).toNat = (lengthField s).toNat % 2 ^ 32 ∧
    (readWord (pad s) 15).toNat = (lengthField s).toNat / 2 ^ 32)

/-- A padded message is a positive multiple of 64 bytes long, in `floor((L + 8) / 64) + 1` blocks
(41_padder.md R123, R127, derived there). -/
def Obligations.PaddedMessageIsWholeBlocks : Prop :=
  ∀ msg : List Byte,
    (paddedBytes msg).length = 64 * blockCount msg ∧ blockCount msg = (msg.length + 8) / 64 + 1 ∧
    (paddedBytes msg).length = msg.length + 1 + zeroCount msg.length + 8 ∧ zeroCount msg.length < 64

/-- The bytes of a code point, by ranges and division (40_encoder.md R101; the layouts are "[from general
knowledge, not in source]" there). -/
def Obligations.PackerFollowsTheRanges : Prop :=
  ∀ cp : BitVec 21,
    let n := cp.toNat
    let tail := fun m : Nat => BitVec.ofNat 8 (0x80 + m % 64)
    utf8Bytes cp =
      if n ≤ 0x7F then some [BitVec.ofNat 8 n]
      else if n ≤ 0x7FF then some [BitVec.ofNat 8 (0xC0 + n / 64), tail n]
      else if 0xD800 ≤ n ∧ n ≤ 0xDFFF then none
      else if n ≤ 0xFFFF then some [BitVec.ofNat 8 (0xE0 + n / 4096), tail (n / 64), tail n]
      else if n ≤ 0x10FFFF then some [BitVec.ofNat 8 (0xF0 + n / 262144), tail (n / 4096), tail (n / 64), tail n]
      else none

/-- Every output byte is one UTF-8 allows (40_encoder.md R103, derived there); there are one to four, and different
code points give different bytes, which follows from the layouts of 40_encoder.md R101. The layouts of two bytes and
more are "[from general knowledge, not in source]" there. -/
def Obligations.PackedBytesAreLegalAndDistinct : Prop :=
  (∀ (cp : BitVec 21) (bs : List Byte), utf8Bytes cp = some bs →
    1 ≤ bs.length ∧ bs.length ≤ 4 ∧
    (∀ b ∈ bs, b.toNat < 0xC0 ∨ (0xC2 ≤ b.toNat ∧ b.toNat ≤ 0xF4)) ∧
    (∀ b ∈ bs.drop 1, 0x80 ≤ b.toNat ∧ b.toNat ≤ 0xBF)) ∧
  (∀ (cp cp' : BitVec 21) (bs : List Byte), utf8Bytes cp = some bs → utf8Bytes cp' = some bs → cp = cp')

/-- `ENC` fills the latch with the code point's bytes or reports that it has none, and touches nothing else; what
the latch gives back is those bytes (40_encoder.md R101; 45_commands.md R268). -/
def Obligations.LatchHoldsThePackedBytes : Prop :=
  ∀ (s : State) (cp : BitVec 21),
    (utf8Bytes cp = none → encodePoint cp s = none) ∧
    (∀ bs, utf8Bytes cp = some bs → ∃ t, encodePoint cp s = some t ∧
      t = { s with encb := t.encb, encn := t.encn } ∧ t.encn.toNat = bs.length ∧ latchedBytes t = bs)

/-- The serializer: character `j` is the digit of its nibble of its word, high nibble first, and nothing else is
written (44_serializer.md R250, R252). -/
def Obligations.SerializerSpellsTheNibbles : Prop :=
  ∀ (s : State) (j : Fin 32),
    let word := ([s.A, s.B, s.C, s.D].getD (j.val / 8) 0).toNat
    let nibble := word / 16 ^ (2 * (j.val / 2 % 4) + (1 - j.val % 2)) % 16
    (readHex (serialize s) j).toNat = (if nibble < 10 then 0x30 + nibble else 0x61 + (nibble - 10)) ∧
    serialize s = { s with hex := (serialize s).hex }

/-- Every digest character is in `[0-9a-f]`, and different chaining values have different digests
(44_serializer.md R253, derived there). -/
def Obligations.DigestsAreHexAndDistinct : Prop :=
  (∀ (st : Chain) (j : Fin 32), (0x30 ≤ (digestOf st)[j].toNat ∧ (digestOf st)[j].toNat ≤ 0x39) ∨
    (0x61 ≤ (digestOf st)[j].toNat ∧ (digestOf st)[j].toNat ≤ 0x66)) ∧
  (∀ st st' : Chain, digestOf st = digestOf st' → st = st')

/-- The assembler, line by line: an `INIT` and a `FINAL` line are one word each, which decodes to the command; the
word of a `PUTC` line decodes to its operand, and an operand above `0x1FFFFF` is rejected; a `PUTS` line is one `PUTC`
word per code point, none for the empty text; a `HASH` line is the words of `INIT`, the `PUTC`s and `FINAL`
(30_encoding.md R80, R81). -/
def Obligations.AssembledWordsDecodeToTheirLines : Prop :=
  (assembleLine .init = some [0x01000000#32] ∧ decode (.cmd32 0x01000000#32) = .instr .init) ∧
  (assembleLine .final = some [0x03000000#32] ∧ decode (.cmd32 0x03000000#32) = .instr .final) ∧
  (∀ o : AsmOperand, o.wellFormed = true → ∃ w, assembleLine (.putc o) = some [w] ∧
    decode (.cmd32 w) = .instr (.putc (BitVec.ofNat 21 o.value)) ∧ (BitVec.ofNat 21 o.value).toNat = o.value) ∧
  (∀ o : AsmOperand, 0x1FFFFF < o.value → assembleLine (.putc o) = none) ∧
  (∀ cps : List (BitVec 21), ∃ ws, assembleLine (.puts (cps.map BitVec.toNat)) = some ws ∧
    ws.map (fun w => decode (.cmd32 w)) = cps.map (fun cp => .instr (.putc cp))) ∧
  assembleLine (.puts []) = some [] ∧
  (∀ cps : List (BitVec 21), ∃ ws, assembleLine (.hash (cps.map BitVec.toNat)) = some ws ∧
    ws.map (fun w => decode (.cmd32 w)) = (hashCommands cps).map Decoded.instr ∧
    ws.map Event.command = (hashCommands cps).filterMap commandEvent)

-- Hidden registers where a command or a reset does not use the sub-units.

/-- Nothing survives a `RESET` event: whatever the state, the next state is the reset state, but for the model's own
counter and what is pending (60_exceptions.md R303; 70_reset_and_hazards.md R322). After an `INIT` outside `FAULT` it
is that too, but for `CAUSE` (45_commands.md R267: "no trace of the earlier bytes remains in any register"). That the
hidden registers and the signals are zero there is the model's choice (log entries 3 and 7). -/
def Obligations.NothingSurvivesResetOrInit : Prop :=
  (∀ (s : State) (rest : List Event), s.pending = .reset :: rest →
    step s = .next { State.reset with epoch := s.epoch, pending := rest }) ∧
  (∀ s : State, s.phase ≠ .fault →
    exec .init s = .next { State.reset with cause := s.cause, epoch := s.epoch, pending := s.pending })

/-- A fault leaves every field but `PHASE`, `CAUSE` and `HEX`, the hidden registers and signals too, and so does a
command word that faults (60_exceptions.md R293: "the faulting command has no partial effect"; of the hidden
registers this is the model's reading, log entry 5). -/
def Obligations.FaultsLeaveEveryOtherField : Prop :=
  (∀ (c : Cause) (s : State), raise c s = { s with phase := .fault, cause := c, hex := noDigest }) ∧
  (∀ (s t : State) (w : BitVec 32) (rest : List Event), s.pending = .command w :: rest → s.phase ≠ .fault →
    step s = .next t → t.phase = .fault →
    t = { s with phase := .fault, cause := t.cause, hex := noDigest, pending := rest })
end

