-- ==== Sys2Proof/Laws/State.lean ====
section
/-! SUPPORT. What each named update of the state does to each field: one lemma per field, true by unfolding, so
that no proof unfolds a record update. -/

namespace Sys2Proof.Machine

section
variable (s : State) (addr : BitVec 6) (v : Byte)

@[simp] theorem writeByte_A : (writeByte s addr v).A = s.A := rfl
@[simp] theorem writeByte_B : (writeByte s addr v).B = s.B := rfl
@[simp] theorem writeByte_C : (writeByte s addr v).C = s.C := rfl
@[simp] theorem writeByte_D : (writeByte s addr v).D = s.D := rfl
@[simp] theorem writeByte_buf : (writeByte s addr v).buf = Memory.write s.buf addr.toNat v := rfl
@[simp] theorem writeByte_fill : (writeByte s addr v).fill = s.fill := rfl
@[simp] theorem writeByte_nbytes : (writeByte s addr v).nbytes = s.nbytes := rfl
@[simp] theorem writeByte_phase : (writeByte s addr v).phase = s.phase := rfl
@[simp] theorem writeByte_cause : (writeByte s addr v).cause = s.cause := rfl
@[simp] theorem writeByte_hex : (writeByte s addr v).hex = s.hex := rfl
@[simp] theorem writeByte_a : (writeByte s addr v).a = s.a := rfl
@[simp] theorem writeByte_b : (writeByte s addr v).b = s.b := rfl
@[simp] theorem writeByte_c : (writeByte s addr v).c = s.c := rfl
@[simp] theorem writeByte_d : (writeByte s addr v).d = s.d := rfl
@[simp] theorem writeByte_I : (writeByte s addr v).I = s.I := rfl
@[simp] theorem writeByte_encb : (writeByte s addr v).encb = s.encb := rfl
@[simp] theorem writeByte_encn : (writeByte s addr v).encn = s.encn := rfl
@[simp] theorem writeByte_f : (writeByte s addr v).f = s.f := rfl
@[simp] theorem writeByte_sum : (writeByte s addr v).sum = s.sum := rfl
@[simp] theorem writeByte_rot : (writeByte s addr v).rot = s.rot := rfl
@[simp] theorem writeByte_epoch : (writeByte s addr v).epoch = s.epoch := rfl
@[simp] theorem writeByte_pending : (writeByte s addr v).pending = s.pending := rfl

end

section
variable (s : State)

@[simp] theorem openMessage_A : (openMessage s).A = 0x67452301#32 := rfl
@[simp] theorem openMessage_B : (openMessage s).B = 0xefcdab89#32 := rfl
@[simp] theorem openMessage_C : (openMessage s).C = 0x98badcfe#32 := rfl
@[simp] theorem openMessage_D : (openMessage s).D = 0x10325476#32 := rfl
@[simp] theorem openMessage_buf : (openMessage s).buf = [] := rfl
@[simp] theorem openMessage_fill : (openMessage s).fill = 0 := rfl
@[simp] theorem openMessage_nbytes : (openMessage s).nbytes = 0 := rfl
@[simp] theorem openMessage_phase : (openMessage s).phase = .absorb := rfl
@[simp] theorem openMessage_cause : (openMessage s).cause = s.cause := rfl
@[simp] theorem openMessage_hex : (openMessage s).hex = Vector.replicate 32 0x00#8 := rfl
@[simp] theorem openMessage_a : (openMessage s).a = 0 := rfl
@[simp] theorem openMessage_b : (openMessage s).b = 0 := rfl
@[simp] theorem openMessage_c : (openMessage s).c = 0 := rfl
@[simp] theorem openMessage_d : (openMessage s).d = 0 := rfl
@[simp] theorem openMessage_I : (openMessage s).I = 0 := rfl
@[simp] theorem openMessage_encb : (openMessage s).encb = Vector.replicate 4 0 := rfl
@[simp] theorem openMessage_encn : (openMessage s).encn = 0 := rfl
@[simp] theorem openMessage_f : (openMessage s).f = 0 := rfl
@[simp] theorem openMessage_sum : (openMessage s).sum = 0 := rfl
@[simp] theorem openMessage_rot : (openMessage s).rot = 0 := rfl
@[simp] theorem openMessage_epoch : (openMessage s).epoch = s.epoch := rfl
@[simp] theorem openMessage_pending : (openMessage s).pending = s.pending := rfl

end

section
variable (s : State)

@[simp] theorem resetCore_A : (resetCore s).A = 0x67452301#32 := rfl
@[simp] theorem resetCore_B : (resetCore s).B = 0xefcdab89#32 := rfl
@[simp] theorem resetCore_C : (resetCore s).C = 0x98badcfe#32 := rfl
@[simp] theorem resetCore_D : (resetCore s).D = 0x10325476#32 := rfl
@[simp] theorem resetCore_buf : (resetCore s).buf = [] := rfl
@[simp] theorem resetCore_fill : (resetCore s).fill = 0 := rfl
@[simp] theorem resetCore_nbytes : (resetCore s).nbytes = 0 := rfl
@[simp] theorem resetCore_phase : (resetCore s).phase = .absorb := rfl
@[simp] theorem resetCore_cause : (resetCore s).cause = .none := rfl
@[simp] theorem resetCore_hex : (resetCore s).hex = Vector.replicate 32 0x00#8 := rfl
@[simp] theorem resetCore_a : (resetCore s).a = 0 := rfl
@[simp] theorem resetCore_b : (resetCore s).b = 0 := rfl
@[simp] theorem resetCore_c : (resetCore s).c = 0 := rfl
@[simp] theorem resetCore_d : (resetCore s).d = 0 := rfl
@[simp] theorem resetCore_I : (resetCore s).I = 0 := rfl
@[simp] theorem resetCore_encb : (resetCore s).encb = Vector.replicate 4 0 := rfl
@[simp] theorem resetCore_encn : (resetCore s).encn = 0 := rfl
@[simp] theorem resetCore_f : (resetCore s).f = 0 := rfl
@[simp] theorem resetCore_sum : (resetCore s).sum = 0 := rfl
@[simp] theorem resetCore_rot : (resetCore s).rot = 0 := rfl
@[simp] theorem resetCore_epoch : (resetCore s).epoch = s.epoch := rfl
@[simp] theorem resetCore_pending : (resetCore s).pending = s.pending := rfl

end

section
variable (k : Cause) (s : State)

@[simp] theorem raise_A : (raise k s).A = s.A := rfl
@[simp] theorem raise_B : (raise k s).B = s.B := rfl
@[simp] theorem raise_C : (raise k s).C = s.C := rfl
@[simp] theorem raise_D : (raise k s).D = s.D := rfl
@[simp] theorem raise_buf : (raise k s).buf = s.buf := rfl
@[simp] theorem raise_fill : (raise k s).fill = s.fill := rfl
@[simp] theorem raise_nbytes : (raise k s).nbytes = s.nbytes := rfl
@[simp] theorem raise_phase : (raise k s).phase = .fault := rfl
@[simp] theorem raise_cause : (raise k s).cause = k := rfl
@[simp] theorem raise_hex : (raise k s).hex = Vector.replicate 32 0x00#8 := rfl
@[simp] theorem raise_a : (raise k s).a = s.a := rfl
@[simp] theorem raise_b : (raise k s).b = s.b := rfl
@[simp] theorem raise_c : (raise k s).c = s.c := rfl
@[simp] theorem raise_d : (raise k s).d = s.d := rfl
@[simp] theorem raise_I : (raise k s).I = s.I := rfl
@[simp] theorem raise_encb : (raise k s).encb = s.encb := rfl
@[simp] theorem raise_encn : (raise k s).encn = s.encn := rfl
@[simp] theorem raise_f : (raise k s).f = s.f := rfl
@[simp] theorem raise_sum : (raise k s).sum = s.sum := rfl
@[simp] theorem raise_rot : (raise k s).rot = s.rot := rfl
@[simp] theorem raise_epoch : (raise k s).epoch = s.epoch := rfl
@[simp] theorem raise_pending : (raise k s).pending = s.pending := rfl

end

section
variable (s : State)

@[simp] theorem closeCommand_A : (closeCommand s).A = s.A := rfl
@[simp] theorem closeCommand_B : (closeCommand s).B = s.B := rfl
@[simp] theorem closeCommand_C : (closeCommand s).C = s.C := rfl
@[simp] theorem closeCommand_D : (closeCommand s).D = s.D := rfl
@[simp] theorem closeCommand_buf : (closeCommand s).buf = s.buf := rfl
@[simp] theorem closeCommand_fill : (closeCommand s).fill = s.fill := rfl
@[simp] theorem closeCommand_nbytes : (closeCommand s).nbytes = s.nbytes := rfl
@[simp] theorem closeCommand_phase : (closeCommand s).phase = s.phase := rfl
@[simp] theorem closeCommand_cause : (closeCommand s).cause = s.cause := rfl
@[simp] theorem closeCommand_hex : (closeCommand s).hex = s.hex := rfl
@[simp] theorem closeCommand_a : (closeCommand s).a = Config.freeWord s.epoch .a := rfl
@[simp] theorem closeCommand_b : (closeCommand s).b = Config.freeWord s.epoch .b := rfl
@[simp] theorem closeCommand_c : (closeCommand s).c = Config.freeWord s.epoch .c := rfl
@[simp] theorem closeCommand_d : (closeCommand s).d = Config.freeWord s.epoch .d := rfl
@[simp] theorem closeCommand_I : (closeCommand s).I = Config.freeIndex s.epoch := rfl
@[simp] theorem closeCommand_encb : (closeCommand s).encb = Vector.ofFn (Config.freeByte s.epoch) := rfl
@[simp] theorem closeCommand_encn : (closeCommand s).encn = Config.freeCount s.epoch := rfl
@[simp] theorem closeCommand_f : (closeCommand s).f = Config.freeWord s.epoch .f := rfl
@[simp] theorem closeCommand_sum : (closeCommand s).sum = Config.freeWord s.epoch .sum := rfl
@[simp] theorem closeCommand_rot : (closeCommand s).rot = Config.freeWord s.epoch .rot := rfl
@[simp] theorem closeCommand_epoch : (closeCommand s).epoch = s.epoch + 1 := rfl
@[simp] theorem closeCommand_pending : (closeCommand s).pending = s.pending := rfl

end

section
variable (fsel : BitVec 2) (k : BitVec 4) (amount : BitVec 5) (t : Word) (s : State)

@[simp] theorem applyStep_A : (applyStep fsel k amount t s).A = s.A := rfl
@[simp] theorem applyStep_B : (applyStep fsel k amount t s).B = s.B := rfl
@[simp] theorem applyStep_C : (applyStep fsel k amount t s).C = s.C := rfl
@[simp] theorem applyStep_D : (applyStep fsel k amount t s).D = s.D := rfl
@[simp] theorem applyStep_buf : (applyStep fsel k amount t s).buf = s.buf := rfl
@[simp] theorem applyStep_fill : (applyStep fsel k amount t s).fill = s.fill := rfl
@[simp] theorem applyStep_nbytes : (applyStep fsel k amount t s).nbytes = s.nbytes := rfl
@[simp] theorem applyStep_phase : (applyStep fsel k amount t s).phase = s.phase := rfl
@[simp] theorem applyStep_cause : (applyStep fsel k amount t s).cause = s.cause := rfl
@[simp] theorem applyStep_hex : (applyStep fsel k amount t s).hex = s.hex := rfl
@[simp] theorem applyStep_a : (applyStep fsel k amount t s).a = s.d := rfl
@[simp] theorem applyStep_b : (applyStep fsel k amount t s).b = add32 s.b (rotl32 (add32 (add32 (add32 s.a (evalFn fsel s.b s.c s.d)) (readWord s k)) t) amount) := rfl
@[simp] theorem applyStep_c : (applyStep fsel k amount t s).c = s.b := rfl
@[simp] theorem applyStep_d : (applyStep fsel k amount t s).d = s.c := rfl
@[simp] theorem applyStep_I : (applyStep fsel k amount t s).I = s.I := rfl
@[simp] theorem applyStep_encb : (applyStep fsel k amount t s).encb = s.encb := rfl
@[simp] theorem applyStep_encn : (applyStep fsel k amount t s).encn = s.encn := rfl
@[simp] theorem applyStep_f : (applyStep fsel k amount t s).f = evalFn fsel s.b s.c s.d := rfl
@[simp] theorem applyStep_sum : (applyStep fsel k amount t s).sum = add32 (add32 (add32 s.a (evalFn fsel s.b s.c s.d)) (readWord s k)) t := rfl
@[simp] theorem applyStep_rot : (applyStep fsel k amount t s).rot = rotl32 (add32 (add32 (add32 s.a (evalFn fsel s.b s.c s.d)) (readWord s k)) t) amount := rfl
@[simp] theorem applyStep_epoch : (applyStep fsel k amount t s).epoch = s.epoch := rfl
@[simp] theorem applyStep_pending : (applyStep fsel k amount t s).pending = s.pending := rfl

end

section
variable (s : State)

@[simp] theorem loadWorking_A : (loadWorking s).A = s.A := rfl
@[simp] theorem loadWorking_B : (loadWorking s).B = s.B := rfl
@[simp] theorem loadWorking_C : (loadWorking s).C = s.C := rfl
@[simp] theorem loadWorking_D : (loadWorking s).D = s.D := rfl
@[simp] theorem loadWorking_buf : (loadWorking s).buf = s.buf := rfl
@[simp] theorem loadWorking_fill : (loadWorking s).fill = s.fill := rfl
@[simp] theorem loadWorking_nbytes : (loadWorking s).nbytes = s.nbytes := rfl
@[simp] theorem loadWorking_phase : (loadWorking s).phase = s.phase := rfl
@[simp] theorem loadWorking_cause : (loadWorking s).cause = s.cause := rfl
@[simp] theorem loadWorking_hex : (loadWorking s).hex = s.hex := rfl
@[simp] theorem loadWorking_a : (loadWorking s).a = s.A := rfl
@[simp] theorem loadWorking_b : (loadWorking s).b = s.B := rfl
@[simp] theorem loadWorking_c : (loadWorking s).c = s.C := rfl
@[simp] theorem loadWorking_d : (loadWorking s).d = s.D := rfl
@[simp] theorem loadWorking_I : (loadWorking s).I = 0 := rfl
@[simp] theorem loadWorking_encb : (loadWorking s).encb = s.encb := rfl
@[simp] theorem loadWorking_encn : (loadWorking s).encn = s.encn := rfl
@[simp] theorem loadWorking_f : (loadWorking s).f = s.f := rfl
@[simp] theorem loadWorking_sum : (loadWorking s).sum = s.sum := rfl
@[simp] theorem loadWorking_rot : (loadWorking s).rot = s.rot := rfl
@[simp] theorem loadWorking_epoch : (loadWorking s).epoch = s.epoch := rfl
@[simp] theorem loadWorking_pending : (loadWorking s).pending = s.pending := rfl

end

section
variable (s : State)

@[simp] theorem feedForward_A : (feedForward s).A = add32 s.A s.a := rfl
@[simp] theorem feedForward_B : (feedForward s).B = add32 s.B s.b := rfl
@[simp] theorem feedForward_C : (feedForward s).C = add32 s.C s.c := rfl
@[simp] theorem feedForward_D : (feedForward s).D = add32 s.D s.d := rfl
@[simp] theorem feedForward_buf : (feedForward s).buf = s.buf := rfl
@[simp] theorem feedForward_fill : (feedForward s).fill = s.fill := rfl
@[simp] theorem feedForward_nbytes : (feedForward s).nbytes = s.nbytes := rfl
@[simp] theorem feedForward_phase : (feedForward s).phase = s.phase := rfl
@[simp] theorem feedForward_cause : (feedForward s).cause = s.cause := rfl
@[simp] theorem feedForward_hex : (feedForward s).hex = s.hex := rfl
@[simp] theorem feedForward_a : (feedForward s).a = s.a := rfl
@[simp] theorem feedForward_b : (feedForward s).b = s.b := rfl
@[simp] theorem feedForward_c : (feedForward s).c = s.c := rfl
@[simp] theorem feedForward_d : (feedForward s).d = s.d := rfl
@[simp] theorem feedForward_I : (feedForward s).I = s.I := rfl
@[simp] theorem feedForward_encb : (feedForward s).encb = s.encb := rfl
@[simp] theorem feedForward_encn : (feedForward s).encn = s.encn := rfl
@[simp] theorem feedForward_f : (feedForward s).f = s.f := rfl
@[simp] theorem feedForward_sum : (feedForward s).sum = s.sum := rfl
@[simp] theorem feedForward_rot : (feedForward s).rot = s.rot := rfl
@[simp] theorem feedForward_epoch : (feedForward s).epoch = s.epoch := rfl
@[simp] theorem feedForward_pending : (feedForward s).pending = s.pending := rfl

end

section
variable (bytes : List Byte) (s : State)

@[simp] theorem latchBytes_A : (latchBytes bytes s).A = s.A := rfl
@[simp] theorem latchBytes_B : (latchBytes bytes s).B = s.B := rfl
@[simp] theorem latchBytes_C : (latchBytes bytes s).C = s.C := rfl
@[simp] theorem latchBytes_D : (latchBytes bytes s).D = s.D := rfl
@[simp] theorem latchBytes_buf : (latchBytes bytes s).buf = s.buf := rfl
@[simp] theorem latchBytes_fill : (latchBytes bytes s).fill = s.fill := rfl
@[simp] theorem latchBytes_nbytes : (latchBytes bytes s).nbytes = s.nbytes := rfl
@[simp] theorem latchBytes_phase : (latchBytes bytes s).phase = s.phase := rfl
@[simp] theorem latchBytes_cause : (latchBytes bytes s).cause = s.cause := rfl
@[simp] theorem latchBytes_hex : (latchBytes bytes s).hex = s.hex := rfl
@[simp] theorem latchBytes_a : (latchBytes bytes s).a = s.a := rfl
@[simp] theorem latchBytes_b : (latchBytes bytes s).b = s.b := rfl
@[simp] theorem latchBytes_c : (latchBytes bytes s).c = s.c := rfl
@[simp] theorem latchBytes_d : (latchBytes bytes s).d = s.d := rfl
@[simp] theorem latchBytes_I : (latchBytes bytes s).I = s.I := rfl
@[simp] theorem latchBytes_encb : (latchBytes bytes s).encb = Vector.ofFn fun n : Fin 4 => bytes.getD n.val s.encb[n] := rfl
@[simp] theorem latchBytes_encn : (latchBytes bytes s).encn = BitVec.ofNat 3 bytes.length := rfl
@[simp] theorem latchBytes_f : (latchBytes bytes s).f = s.f := rfl
@[simp] theorem latchBytes_sum : (latchBytes bytes s).sum = s.sum := rfl
@[simp] theorem latchBytes_rot : (latchBytes bytes s).rot = s.rot := rfl
@[simp] theorem latchBytes_epoch : (latchBytes bytes s).epoch = s.epoch := rfl
@[simp] theorem latchBytes_pending : (latchBytes bytes s).pending = s.pending := rfl

end

section
variable (s : State)

@[simp] theorem serialize_A : (serialize s).A = s.A := by simp only [serialize]
@[simp] theorem serialize_B : (serialize s).B = s.B := by simp only [serialize]
@[simp] theorem serialize_C : (serialize s).C = s.C := by simp only [serialize]
@[simp] theorem serialize_D : (serialize s).D = s.D := by simp only [serialize]
@[simp] theorem serialize_buf : (serialize s).buf = s.buf := by simp only [serialize]
@[simp] theorem serialize_fill : (serialize s).fill = s.fill := by simp only [serialize]
@[simp] theorem serialize_nbytes : (serialize s).nbytes = s.nbytes := by simp only [serialize]
@[simp] theorem serialize_phase : (serialize s).phase = s.phase := by simp only [serialize]
@[simp] theorem serialize_cause : (serialize s).cause = s.cause := by simp only [serialize]
@[simp] theorem serialize_hex : (serialize s).hex = digestChars s.A s.B s.C s.D := by simp only [serialize]
@[simp] theorem serialize_a : (serialize s).a = s.a := by simp only [serialize]
@[simp] theorem serialize_b : (serialize s).b = s.b := by simp only [serialize]
@[simp] theorem serialize_c : (serialize s).c = s.c := by simp only [serialize]
@[simp] theorem serialize_d : (serialize s).d = s.d := by simp only [serialize]
@[simp] theorem serialize_I : (serialize s).I = s.I := by simp only [serialize]
@[simp] theorem serialize_encb : (serialize s).encb = s.encb := by simp only [serialize]
@[simp] theorem serialize_encn : (serialize s).encn = s.encn := by simp only [serialize]
@[simp] theorem serialize_f : (serialize s).f = s.f := by simp only [serialize]
@[simp] theorem serialize_sum : (serialize s).sum = s.sum := by simp only [serialize]
@[simp] theorem serialize_rot : (serialize s).rot = s.rot := by simp only [serialize]
@[simp] theorem serialize_epoch : (serialize s).epoch = s.epoch := by simp only [serialize]
@[simp] theorem serialize_pending : (serialize s).pending = s.pending := by simp only [serialize]

end

section
variable (fsel : BitVec 2) (s : State)

@[simp] theorem evaluate_A : (evaluate fsel s).A = s.A := rfl
@[simp] theorem evaluate_B : (evaluate fsel s).B = s.B := rfl
@[simp] theorem evaluate_C : (evaluate fsel s).C = s.C := rfl
@[simp] theorem evaluate_D : (evaluate fsel s).D = s.D := rfl
@[simp] theorem evaluate_buf : (evaluate fsel s).buf = s.buf := rfl
@[simp] theorem evaluate_fill : (evaluate fsel s).fill = s.fill := rfl
@[simp] theorem evaluate_nbytes : (evaluate fsel s).nbytes = s.nbytes := rfl
@[simp] theorem evaluate_phase : (evaluate fsel s).phase = s.phase := rfl
@[simp] theorem evaluate_cause : (evaluate fsel s).cause = s.cause := rfl
@[simp] theorem evaluate_hex : (evaluate fsel s).hex = s.hex := rfl
@[simp] theorem evaluate_a : (evaluate fsel s).a = s.a := rfl
@[simp] theorem evaluate_b : (evaluate fsel s).b = s.b := rfl
@[simp] theorem evaluate_c : (evaluate fsel s).c = s.c := rfl
@[simp] theorem evaluate_d : (evaluate fsel s).d = s.d := rfl
@[simp] theorem evaluate_I : (evaluate fsel s).I = s.I := rfl
@[simp] theorem evaluate_encb : (evaluate fsel s).encb = s.encb := rfl
@[simp] theorem evaluate_encn : (evaluate fsel s).encn = s.encn := rfl
@[simp] theorem evaluate_f : (evaluate fsel s).f = evalFn fsel s.b s.c s.d := rfl
@[simp] theorem evaluate_sum : (evaluate fsel s).sum = s.sum := rfl
@[simp] theorem evaluate_rot : (evaluate fsel s).rot = s.rot := rfl
@[simp] theorem evaluate_epoch : (evaluate fsel s).epoch = s.epoch := rfl
@[simp] theorem evaluate_pending : (evaluate fsel s).pending = s.pending := rfl

end

section
variable (s : State)

/-- Moving the index moves nothing else (43_compress.md R161). -/
theorem advanceIndex_eq : advanceIndex s = { s with I := if s.I = 63 then s.I else s.I + 1 } := by
  unfold advanceIndex
  split <;> rfl

@[simp] theorem advanceIndex_I : (advanceIndex s).I = if s.I = 63 then s.I else s.I + 1 := by
  rw [advanceIndex_eq]

@[simp] theorem advanceIndex_A : (advanceIndex s).A = s.A := by rw [advanceIndex_eq]
@[simp] theorem advanceIndex_B : (advanceIndex s).B = s.B := by rw [advanceIndex_eq]
@[simp] theorem advanceIndex_C : (advanceIndex s).C = s.C := by rw [advanceIndex_eq]
@[simp] theorem advanceIndex_D : (advanceIndex s).D = s.D := by rw [advanceIndex_eq]
@[simp] theorem advanceIndex_buf : (advanceIndex s).buf = s.buf := by rw [advanceIndex_eq]
@[simp] theorem advanceIndex_fill : (advanceIndex s).fill = s.fill := by rw [advanceIndex_eq]
@[simp] theorem advanceIndex_nbytes : (advanceIndex s).nbytes = s.nbytes := by rw [advanceIndex_eq]
@[simp] theorem advanceIndex_phase : (advanceIndex s).phase = s.phase := by rw [advanceIndex_eq]
@[simp] theorem advanceIndex_cause : (advanceIndex s).cause = s.cause := by rw [advanceIndex_eq]
@[simp] theorem advanceIndex_hex : (advanceIndex s).hex = s.hex := by rw [advanceIndex_eq]
@[simp] theorem advanceIndex_a : (advanceIndex s).a = s.a := by rw [advanceIndex_eq]
@[simp] theorem advanceIndex_b : (advanceIndex s).b = s.b := by rw [advanceIndex_eq]
@[simp] theorem advanceIndex_c : (advanceIndex s).c = s.c := by rw [advanceIndex_eq]
@[simp] theorem advanceIndex_d : (advanceIndex s).d = s.d := by rw [advanceIndex_eq]
@[simp] theorem advanceIndex_encb : (advanceIndex s).encb = s.encb := by rw [advanceIndex_eq]
@[simp] theorem advanceIndex_encn : (advanceIndex s).encn = s.encn := by rw [advanceIndex_eq]
@[simp] theorem advanceIndex_f : (advanceIndex s).f = s.f := by rw [advanceIndex_eq]
@[simp] theorem advanceIndex_sum : (advanceIndex s).sum = s.sum := by rw [advanceIndex_eq]
@[simp] theorem advanceIndex_rot : (advanceIndex s).rot = s.rot := by rw [advanceIndex_eq]
@[simp] theorem advanceIndex_epoch : (advanceIndex s).epoch = s.epoch := by rw [advanceIndex_eq]
@[simp] theorem advanceIndex_pending : (advanceIndex s).pending = s.pending := by rw [advanceIndex_eq]

end

end Sys2Proof.Machine
end

