-- ==== Sys2Proof/Laws/Memory.lean ====
section
/-! SUPPORT. The block buffer: every write keeps the canonical form, a read after a write to the same place gives
what was written, and a write leaves every other place alone (20_memory.md R52, R53). -/

namespace Sys2Proof.Machine

theorem Memory.risingFrom_mono {low low' : Nat} {m : Memory} (h : low ≤ low')
    (hm : Memory.risingFrom low' m = true) : Memory.risingFrom low m = true := by
  cases m with
  | nil => rfl
  | cons p m =>
    simp only [Memory.risingFrom, Bool.and_eq_true, decide_eq_true_eq] at hm ⊢
    exact ⟨⟨⟨h.trans hm.1.1.1, hm.1.1.2⟩, hm.1.2⟩, hm.2⟩

/-- Below the first listed address everything reads as unlisted. -/
theorem Memory.read_below {low addr : Nat} {m : Memory} (hm : Memory.risingFrom low m = true)
    (h : addr < low) : Memory.read m addr = Memory.unlisted := by
  induction m generalizing low with
  | nil => rfl
  | cons p m ih =>
    simp only [Memory.risingFrom, Bool.and_eq_true, decide_eq_true_eq] at hm
    rw [Memory.read, if_neg (by omega)]
    exact ih hm.2 (by omega)

theorem Memory.write_risingFrom {low addr : Nat} {m : Memory} {v : Byte}
    (hm : Memory.risingFrom low m = true) (hl : low ≤ addr) (ha : addr < 64) :
    Memory.risingFrom low (Memory.write m addr v) = true := by
  induction m generalizing low with
  | nil => by_cases hv : v = Memory.unlisted <;> simp [Memory.write, Memory.risingFrom, hv, hl, ha]
  | cons p m ih =>
    obtain ⟨b, w⟩ := p
    have hm' := hm
    simp only [Memory.risingFrom, Bool.and_eq_true, decide_eq_true_eq] at hm'
    obtain ⟨⟨⟨hlb, hb⟩, hw⟩, hrest⟩ := hm'
    unfold Memory.write
    split_ifs with h1 h2 h3 h4
    · exact hm
    · simp only [Memory.risingFrom, Bool.and_eq_true, decide_eq_true_eq]
      exact ⟨⟨⟨hl, ha⟩, h2⟩, ⟨⟨⟨by omega, hb⟩, hw⟩, hrest⟩⟩
    · exact Memory.risingFrom_mono (by omega) hrest
    · simp only [Memory.risingFrom, Bool.and_eq_true, decide_eq_true_eq]
      subst h3
      exact ⟨⟨⟨hl, ha⟩, h4⟩, hrest⟩
    · simp only [Memory.risingFrom, Bool.and_eq_true, decide_eq_true_eq]
      exact ⟨⟨⟨hlb, hb⟩, hw⟩, ih hrest (by omega)⟩

/-- A write below address 64 keeps the canonical form. -/
theorem Memory.write_wf {m : Memory} {addr : Nat} {v : Byte} (hm : Memory.wf m = true)
    (ha : addr < 64) : Memory.wf (Memory.write m addr v) = true :=
  Memory.write_risingFrom hm (Nat.zero_le _) ha

theorem Memory.read_write_risingFrom {low addr addr' : Nat} {m : Memory} {v : Byte}
    (hm : Memory.risingFrom low m = true) :
    Memory.read (Memory.write m addr v) addr' = if addr' = addr then v else Memory.read m addr' := by
  induction m generalizing low with
  | nil =>
    by_cases hv : v = Memory.unlisted <;> by_cases ha : addr' = addr <;>
      simp [Memory.write, Memory.read, hv, ha]
  | cons p m ih =>
    obtain ⟨b, w⟩ := p
    simp only [Memory.risingFrom, Bool.and_eq_true, decide_eq_true_eq] at hm
    unfold Memory.write
    split_ifs with h1 h2 h3 h4 h5 h6 h7 h8 h9
    · subst h3
      rw [Memory.read, if_neg (by omega), Memory.read_below hm.2 (by omega), h2]
    · rfl
    · subst h4
      rw [Memory.read, if_pos rfl]
    · rw [Memory.read, if_neg h4]
    · subst h7; subst h5
      rw [Memory.read_below hm.2 (by omega), h6]
    · subst h5
      rw [Memory.read, if_neg h7]
    · subst h8
      rw [Memory.read, if_pos rfl]
    · subst h5
      rw [Memory.read, if_neg h8, Memory.read, if_neg h8]
    · subst h9
      rw [Memory.read, if_neg h5, ih hm.2, if_pos rfl]
    · rw [Memory.read, Memory.read, ih hm.2, if_neg h9]

/-- A read after a write. -/
theorem Memory.read_write {m : Memory} {addr addr' : Nat} {v : Byte} (hm : Memory.wf m = true) :
    Memory.read (Memory.write m addr v) addr' = if addr' = addr then v else Memory.read m addr' :=
  Memory.read_write_risingFrom hm

/-- The empty list is canonical. -/
@[simp] theorem Memory.wf_nil : Memory.wf [] = true := rfl

/-- A byte write keeps the canonical form. -/
theorem writeByte_wf {s : State} (addr : BitVec 6) (v : Byte) (h : Memory.wf s.buf = true) :
    Memory.wf (writeByte s addr v).buf = true :=
  Memory.write_wf h addr.isLt

/-- A byte read after a byte write. -/
theorem readByte_writeByte {s : State} (addr addr' : BitVec 6) (v : Byte)
    (h : Memory.wf s.buf = true) :
    readByte (writeByte s addr v) addr' = if addr' = addr then v else readByte s addr' := by
  unfold readByte
  rw [writeByte_buf, Memory.read_write h]
  simp only [BitVec.toNat_inj]

/-- A word write keeps the canonical form. -/
theorem writeWord_wf {s : State} (k : BitVec 4) (v : Word) (h : Memory.wf s.buf = true) :
    Memory.wf (writeWord s k v).buf = true :=
  writeByte_wf _ _ (writeByte_wf _ _ (writeByte_wf _ _ (writeByte_wf _ _ h)))

/-- Reads depend on the buffer alone. -/
theorem readByte_congr {s t : State} (h : s.buf = t.buf) (addr : BitVec 6) :
    readByte s addr = readByte t addr := by
  rw [readByte, readByte, h]

theorem readWord_congr {s t : State} (h : s.buf = t.buf) (k : BitVec 4) :
    readWord s k = readWord t k := by
  simp only [readWord, readByte_congr h]

end Sys2Proof.Machine
end

