-- ==== Sys2Proof/Laws/Datapath.lean ====
section
/-! SUPPORT. What each shared operation of the datapath can do, said once: the frame of a run of steps, of a
`COMPRESS`, of absorbing bytes, of padding, and of the commands' meanings. -/

namespace Sys2Proof.Machine

/-- A run of steps writes the working registers, the step index and the step's signals, and nothing else
(43_compress.md R166). -/
theorem runSteps_frame (n : Nat) (s : State) : ∃ (w : Chain) (i : BitVec 6) (f u r : Word),
    runSteps n s = { s with a := w.A, b := w.B, c := w.C, d := w.D, I := i, f := f, sum := u, rot := r } := by
  induction n generalizing s with
  | zero => exact ⟨workingOf s, s.I, s.f, s.sum, s.rot, rfl⟩
  | succ n ih =>
    obtain ⟨w, i, f, u, r, h⟩ := ih (advanceIndex (stepAtIndex s))
    exact ⟨w, i, f, u, r, by rw [runSteps, h, advanceIndex_eq]; rfl⟩

/-- One step of the compressor is one step of `CF` on the working registers (43_compress.md R162). -/
theorem stepAtIndex_working (s : State) :
    workingOf (stepAtIndex s) = cfStep (readWord s) (workingOf s) s.I := rfl

/-- The feed-forward leaves the working registers (43_compress.md R168). -/
@[simp] theorem feedForward_working (s : State) : workingOf (feedForward s) = workingOf s := rfl

/-- The chaining value after no block, and after one block more (41_padder.md R127). -/
@[simp] theorem chainAfter_zero (bytes : List Byte) : chainAfter bytes 0 = initialChain := by
  simp [chainAfter]

theorem chainAfter_succ (bytes : List Byte) (n : Nat) :
    chainAfter bytes (n + 1) = compressionFn (chainAfter bytes n) (blockAt bytes n) := by
  simp only [chainAfter, List.range_succ, List.foldl_append, List.foldl_cons, List.foldl_nil]

/-- `COMPRESS` writes `A` to `D`, the working registers, the step index and the step's signals, and nothing
else (43_compress.md R161). -/
theorem compress_frame (s : State) : ∃ (v w : Chain) (i : BitVec 6) (f u r : Word),
    compress s = { s with A := v.A, B := v.B, C := v.C, D := v.D, a := w.A, b := w.B, c := w.C, d := w.D,
                          I := i, f := f, sum := u, rot := r } := by
  obtain ⟨w, i, f, u, r, h⟩ := runSteps_frame 64 (loadWorking s)
  exact ⟨⟨add32 s.A w.A, add32 s.B w.B, add32 s.C w.C, add32 s.D w.D⟩, w, i, f, u, r, by
    rw [compress, h]; rfl⟩

section
variable (s : State)

@[simp] theorem compress_buf : (compress s).buf = s.buf := by
  obtain ⟨v, w, i, f, u, r, h⟩ := compress_frame s; rw [h]
@[simp] theorem compress_fill : (compress s).fill = s.fill := by
  obtain ⟨v, w, i, f, u, r, h⟩ := compress_frame s; rw [h]
@[simp] theorem compress_nbytes : (compress s).nbytes = s.nbytes := by
  obtain ⟨v, w, i, f, u, r, h⟩ := compress_frame s; rw [h]
@[simp] theorem compress_phase : (compress s).phase = s.phase := by
  obtain ⟨v, w, i, f, u, r, h⟩ := compress_frame s; rw [h]
@[simp] theorem compress_cause : (compress s).cause = s.cause := by
  obtain ⟨v, w, i, f, u, r, h⟩ := compress_frame s; rw [h]
@[simp] theorem compress_hex : (compress s).hex = s.hex := by
  obtain ⟨v, w, i, f, u, r, h⟩ := compress_frame s; rw [h]
@[simp] theorem compress_encb : (compress s).encb = s.encb := by
  obtain ⟨v, w, i, f, u, r, h⟩ := compress_frame s; rw [h]
@[simp] theorem compress_encn : (compress s).encn = s.encn := by
  obtain ⟨v, w, i, f, u, r, h⟩ := compress_frame s; rw [h]
@[simp] theorem compress_epoch : (compress s).epoch = s.epoch := by
  obtain ⟨v, w, i, f, u, r, h⟩ := compress_frame s; rw [h]
@[simp] theorem compress_pending : (compress s).pending = s.pending := by
  obtain ⟨v, w, i, f, u, r, h⟩ := compress_frame s; rw [h]

end

/-- One byte absorbed before the block is full (41_padder.md R121). -/
theorem absorb_partial {s : State} (v : Byte) (h : s.fill ≠ 63) :
    absorb v s = { writeByte s s.fill v with fill := s.fill + 1 } := by
  rw [absorb, if_neg h]

/-- The byte that completes the block (41_padder.md R121). -/
theorem absorb_full {s : State} (v : Byte) (h : s.fill = 63) :
    absorb v s = { compress (writeByte s s.fill v) with fill := 0 } := by
  rw [absorb, if_pos h]

section
variable (v : Byte) (s : State)

@[simp] theorem absorb_nbytes : (absorb v s).nbytes = s.nbytes := by
  unfold absorb; split <;> simp
@[simp] theorem absorb_phase : (absorb v s).phase = s.phase := by
  unfold absorb; split <;> simp
@[simp] theorem absorb_cause : (absorb v s).cause = s.cause := by
  unfold absorb; split <;> simp
@[simp] theorem absorb_hex : (absorb v s).hex = s.hex := by
  unfold absorb; split <;> simp
@[simp] theorem absorb_encb : (absorb v s).encb = s.encb := by
  unfold absorb; split <;> simp
@[simp] theorem absorb_encn : (absorb v s).encn = s.encn := by
  unfold absorb; split <;> simp
@[simp] theorem absorb_epoch : (absorb v s).epoch = s.epoch := by
  unfold absorb; split <;> simp
@[simp] theorem absorb_pending : (absorb v s).pending = s.pending := by
  unfold absorb; split <;> simp

/-- After one byte `FILL` has moved on by one, from 63 to 0 (41_padder.md R121). -/
@[simp] theorem absorb_fill : (absorb v s).fill = s.fill + 1 := by
  unfold absorb
  split
  · rename_i h; simp [h]
  · rfl

/-- Absorbing a byte keeps the buffer canonical. -/
theorem absorb_wf (h : Memory.wf s.buf = true) : Memory.wf (absorb v s).buf = true := by
  unfold absorb
  split
  · simpa using writeByte_wf s.fill v h
  · simpa using writeByte_wf s.fill v h

end

/-- `COMPRESS` and `ABSORB` do not look at the message length (41_padder.md R121). -/
theorem runSteps_withNbytes (k : Nat) (s : State) (n : BitVec 61) :
    runSteps k { s with nbytes := n } = { runSteps k s with nbytes := n } := by
  induction k generalizing s with
  | zero => rfl
  | succ k ih =>
    rw [runSteps, runSteps, ← ih, advanceIndex_eq, advanceIndex_eq]
    rfl

theorem compress_withNbytes (s : State) (n : BitVec 61) :
    compress { s with nbytes := n } = { compress s with nbytes := n } := by
  have hl : loadWorking { s with nbytes := n } = { loadWorking s with nbytes := n } := rfl
  unfold compress
  rw [hl, runSteps_withNbytes]
  generalize runSteps 64 (loadWorking s) = w
  rfl

theorem absorb_withNbytes (v : Byte) (s : State) (n : BitVec 61) :
    absorb v { s with nbytes := n } = { absorb v s with nbytes := n } := by
  have hw : writeByte { s with nbytes := n } s.fill v = { writeByte s s.fill v with nbytes := n } := rfl
  by_cases h : s.fill = 63
  · simp only [absorb, h, if_true] at hw ⊢
    rw [hw, compress_withNbytes]
  · simp only [absorb, h, if_false, hw]

section
variable (vs : List Byte) (s : State)

@[simp] theorem absorbAll_nbytes : (absorbAll vs s).nbytes = s.nbytes := by
  induction vs generalizing s with
  | nil => rfl
  | cons v vs ih => rw [absorbAll, ih, absorb_nbytes]

@[simp] theorem absorbAll_phase : (absorbAll vs s).phase = s.phase := by
  induction vs generalizing s with
  | nil => rfl
  | cons v vs ih => rw [absorbAll, ih, absorb_phase]

@[simp] theorem absorbAll_cause : (absorbAll vs s).cause = s.cause := by
  induction vs generalizing s with
  | nil => rfl
  | cons v vs ih => rw [absorbAll, ih, absorb_cause]

@[simp] theorem absorbAll_hex : (absorbAll vs s).hex = s.hex := by
  induction vs generalizing s with
  | nil => rfl
  | cons v vs ih => rw [absorbAll, ih, absorb_hex]

@[simp] theorem absorbAll_encb : (absorbAll vs s).encb = s.encb := by
  induction vs generalizing s with
  | nil => rfl
  | cons v vs ih => rw [absorbAll, ih, absorb_encb]

@[simp] theorem absorbAll_encn : (absorbAll vs s).encn = s.encn := by
  induction vs generalizing s with
  | nil => rfl
  | cons v vs ih => rw [absorbAll, ih, absorb_encn]

@[simp] theorem absorbAll_epoch : (absorbAll vs s).epoch = s.epoch := by
  induction vs generalizing s with
  | nil => rfl
  | cons v vs ih => rw [absorbAll, ih, absorb_epoch]

@[simp] theorem absorbAll_pending : (absorbAll vs s).pending = s.pending := by
  induction vs generalizing s with
  | nil => rfl
  | cons v vs ih => rw [absorbAll, ih, absorb_pending]

/-- After some bytes `FILL` has moved on by their number, modulo 64. -/
theorem absorbAll_fill : (absorbAll vs s).fill = s.fill + BitVec.ofNat 6 vs.length := by
  induction vs generalizing s with
  | nil => simp [absorbAll]
  | cons v vs ih =>
    rw [absorbAll, ih, absorb_fill, List.length_cons, BitVec.ofNat_add]
    ac_rfl

theorem absorbAll_wf (h : Memory.wf s.buf = true) : Memory.wf (absorbAll vs s).buf = true := by
  induction vs generalizing s with
  | nil => exact h
  | cons v vs ih => exact ih _ (absorb_wf v s h)

theorem absorbAll_append (ws : List Byte) : absorbAll (vs ++ ws) s = absorbAll ws (absorbAll vs s) := by
  induction vs generalizing s with
  | nil => rfl
  | cons v vs ih => exact ih _

/-- Appending the bytes of a code point is absorbing them and counting them (45_commands.md R268). -/
theorem appendBytes_eq :
    appendBytes vs s = { absorbAll vs s with nbytes := s.nbytes + BitVec.ofNat 61 vs.length } := by
  have key : ∀ (vs : List Byte) (s : State) (n : BitVec 61),
      absorbAll vs { s with nbytes := n } = { absorbAll vs s with nbytes := n } := by
    intro vs
    induction vs with
    | nil => intro s n; rfl
    | cons v vs ih => intro s n; rw [absorbAll, absorbAll, ← ih, absorb_withNbytes]
  induction vs generalizing s with
  | nil => simp [appendBytes, absorbAll]
  | cons v vs ih =>
    rw [appendBytes, ih, key]
    simp only [absorb_nbytes, absorbAll, List.length_cons, BitVec.ofNat_add]
    congr 1
    ac_rfl

end

section
variable (n : Nat) (s : State)

@[simp] theorem padZeros_nbytes : (padZeros n s).nbytes = s.nbytes := by
  induction n generalizing s with
  | zero => rfl
  | succ n ih => unfold padZeros; split <;> simp [ih]

@[simp] theorem padZeros_phase : (padZeros n s).phase = s.phase := by
  induction n generalizing s with
  | zero => rfl
  | succ n ih => unfold padZeros; split <;> simp [ih]

@[simp] theorem padZeros_cause : (padZeros n s).cause = s.cause := by
  induction n generalizing s with
  | zero => rfl
  | succ n ih => unfold padZeros; split <;> simp [ih]

@[simp] theorem padZeros_hex : (padZeros n s).hex = s.hex := by
  induction n generalizing s with
  | zero => rfl
  | succ n ih => unfold padZeros; split <;> simp [ih]

@[simp] theorem padZeros_encb : (padZeros n s).encb = s.encb := by
  induction n generalizing s with
  | zero => rfl
  | succ n ih => unfold padZeros; split <;> simp [ih]

@[simp] theorem padZeros_encn : (padZeros n s).encn = s.encn := by
  induction n generalizing s with
  | zero => rfl
  | succ n ih => unfold padZeros; split <;> simp [ih]

@[simp] theorem padZeros_epoch : (padZeros n s).epoch = s.epoch := by
  induction n generalizing s with
  | zero => rfl
  | succ n ih => unfold padZeros; split <;> simp [ih]

@[simp] theorem padZeros_pending : (padZeros n s).pending = s.pending := by
  induction n generalizing s with
  | zero => rfl
  | succ n ih => unfold padZeros; split <;> simp [ih]

theorem padZeros_wf (h : Memory.wf s.buf = true) : Memory.wf (padZeros n s).buf = true := by
  induction n generalizing s with
  | zero => exact h
  | succ n ih =>
    unfold padZeros
    split
    · exact h
    · exact ih _ (absorb_wf _ s h)

end

/-- The zeros of the padding stop at byte 56, if the bound allows them all (41_padder.md R122). -/
theorem padZeros_fill {n : Nat} {s : State} (h : (56 - s.fill).toNat ≤ n) : (padZeros n s).fill = 56 := by
  induction n generalizing s with
  | zero =>
    have h0 : 56 - s.fill = 0 := BitVec.eq_of_toNat_eq (by simpa using h)
    rw [padZeros, ← sub_eq_zero.mp h0]
  | succ n ih =>
    unfold padZeros
    split
    · assumption
    · rename_i hne
      apply ih
      rw [absorb_fill]
      bv_omega

section
variable (s : State)

@[simp] theorem pad_nbytes : (pad s).nbytes = s.nbytes := by simp [pad]
@[simp] theorem pad_phase : (pad s).phase = s.phase := by simp [pad]
@[simp] theorem pad_cause : (pad s).cause = s.cause := by simp [pad]
@[simp] theorem pad_hex : (pad s).hex = s.hex := by simp [pad]
@[simp] theorem pad_encb : (pad s).encb = s.encb := by simp [pad]
@[simp] theorem pad_encn : (pad s).encn = s.encn := by simp [pad]
@[simp] theorem pad_epoch : (pad s).epoch = s.epoch := by simp [pad]
@[simp] theorem pad_pending : (pad s).pending = s.pending := by simp [pad]

/-- After the padding the last block has just been compressed (41_padder.md R122). -/
@[simp] theorem pad_fill : (pad s).fill = 0 := by
  have hz : (padZeros 64 (absorb 0x00000080#8 s)).fill = 56 := padZeros_fill (by omega)
  have hl : (lengthBytes (lengthField s)).length = 8 := rfl
  rw [pad, absorbAll_fill, hz, hl]
  decide

theorem pad_wf (h : Memory.wf s.buf = true) : Memory.wf (pad s).buf = true :=
  absorbAll_wf _ _ (padZeros_wf _ _ (absorb_wf _ _ h))

end

/-- The latch gives back the bytes put into it, if they are at most four (40_encoder.md R101;
45_commands.md R268). -/
theorem latchedBytes_latchBytes {bytes : List Byte} (s : State) (h : bytes.length ≤ 4) :
    latchedBytes (latchBytes bytes s) = bytes := by
  have hn : (BitVec.ofNat 3 bytes.length).toNat = bytes.length := by
    rw [BitVec.toNat_ofNat, Nat.mod_eq_of_lt (by omega)]
  apply List.ext_getElem
  · simp only [latchedBytes, latchBytes_encn, hn, List.length_take, Vector.length_toList]
    omega
  · intro j h1 h2
    simp [latchedBytes, h2]

/-- The packer gives one to four bytes (40_encoder.md R101). -/
theorem utf8Bytes_length {cp : BitVec 21} {bs : List Byte} (h : utf8Bytes cp = some bs) :
    1 ≤ bs.length ∧ bs.length ≤ 4 := by
  unfold utf8Bytes at h
  split_ifs at h <;> cases h <;> simp

/-- What `PUTC` does in phase `ABSORB` with a code point that has an encoding (45_commands.md R268). -/
theorem execPutc_legal {s : State} {cp : BitVec 21} {bs : List Byte} (hp : s.phase = .absorb)
    (hb : utf8Bytes cp = some bs) :
    execPutc cp s = .next (closeCommand (appendBytes bs (latchBytes bs s))) := by
  simp only [execPutc, hp, encodePoint, hb, latchedBytes_latchBytes s (utf8Bytes_length hb).2]

/-- What `PUTC` does with an operand that is no scalar value (45_commands.md R268). -/
theorem execPutc_bad {s : State} {cp : BitVec 21} (hp : s.phase = .absorb) (hb : utf8Bytes cp = none) :
    execPutc cp s = .next (raise .badcp s) := by
  simp only [execPutc, hp, encodePoint, hb]

/-- The two commands that close or extend a message, in phase `DONE` (45_commands.md R265, R271). -/
theorem execPutc_done {s : State} (cp : BitVec 21) (hp : s.phase = .done) :
    execPutc cp s = .next (raise .seq s) := by
  simp only [execPutc, hp]

theorem execFinal_done {s : State} (hp : s.phase = .done) : execFinal s = .next (raise .seq s) := by
  simp only [execFinal, hp]

/-- What `FINAL` does in phase `ABSORB` (45_commands.md R270). -/
theorem execFinal_absorb {s : State} (hp : s.phase = .absorb) :
    execFinal s = .next (closeCommand { serialize (pad s) with phase := .done }) := by
  simp only [execFinal, hp]

/-- What `INIT` does outside `FAULT` (45_commands.md R266). -/
theorem execInit_open {s : State} (hp : s.phase ≠ .fault) : execInit s = .next (openMessage s) := by
  unfold execInit
  cases h : s.phase
  · rfl
  · rfl
  · exact absurd h hp

/-- In `FAULT` the three commands are ignored (60_exceptions.md R294). -/
theorem execInit_fault {s : State} (hp : s.phase = .fault) : execInit s = .next s := by
  simp only [execInit, hp]

theorem execPutc_fault {s : State} (cp : BitVec 21) (hp : s.phase = .fault) : execPutc cp s = .next s := by
  simp only [execPutc, hp]

theorem execFinal_fault {s : State} (hp : s.phase = .fault) : execFinal s = .next s := by
  simp only [execFinal, hp]

end Sys2Proof.Machine
end

