-- ==== Sys2Proof/Laws/PerInstr.lean ====
section
/-! SUPPORT. One family of statements made per instruction: TableRow, that an instruction's encoding has the
format and lies in the row (mask and match) that spec/opcode_table.json gives its mnemonic. -/

namespace Sys2Proof.Laws.TableRow

/-- How many bits an encoding has. -/
def widthOf : Encoding → Nat
  | .cmd32 _ => 32
  | .step6 _ => 6
  | .fsel2 _ => 2
  | .rot5 _ => 5

/-- Its bits as a number, bit 0 the least significant. -/
def bitsOf : Encoding → Nat
  | .cmd32 w => w.toNat
  | .step6 w => w.toNat
  | .fsel2 w => w.toNat
  | .rot5 w => w.toNat

/-- A row of the opcode table: how many bits, which are fixed, and to what. -/
structure Row where
  width : Nat
  mask : Nat
  pattern : Nat

/-- The row of an instruction, from spec/opcode_table.json. -/
def rowOf : Instr → Row
  | .init => ⟨32, 0xFFFFFFFF, 0x01000000⟩
  | .putc _ => ⟨32, 0xFFE00000, 0x02000000⟩
  | .final => ⟨32, 0xFFFFFFFF, 0x03000000⟩
  | .f00 => ⟨6, 0x3F, 0x00⟩
  | .f01 => ⟨6, 0x3F, 0x01⟩
  | .f02 => ⟨6, 0x3F, 0x02⟩
  | .f03 => ⟨6, 0x3F, 0x03⟩
  | .f04 => ⟨6, 0x3F, 0x04⟩
  | .f05 => ⟨6, 0x3F, 0x05⟩
  | .f06 => ⟨6, 0x3F, 0x06⟩
  | .f07 => ⟨6, 0x3F, 0x07⟩
  | .f08 => ⟨6, 0x3F, 0x08⟩
  | .f09 => ⟨6, 0x3F, 0x09⟩
  | .f10 => ⟨6, 0x3F, 0x0A⟩
  | .f11 => ⟨6, 0x3F, 0x0B⟩
  | .f12 => ⟨6, 0x3F, 0x0C⟩
  | .f13 => ⟨6, 0x3F, 0x0D⟩
  | .f14 => ⟨6, 0x3F, 0x0E⟩
  | .f15 => ⟨6, 0x3F, 0x0F⟩
  | .g16 => ⟨6, 0x3F, 0x10⟩
  | .g17 => ⟨6, 0x3F, 0x11⟩
  | .g18 => ⟨6, 0x3F, 0x12⟩
  | .g19 => ⟨6, 0x3F, 0x13⟩
  | .g20 => ⟨6, 0x3F, 0x14⟩
  | .g21 => ⟨6, 0x3F, 0x15⟩
  | .g22 => ⟨6, 0x3F, 0x16⟩
  | .g23 => ⟨6, 0x3F, 0x17⟩
  | .g24 => ⟨6, 0x3F, 0x18⟩
  | .g25 => ⟨6, 0x3F, 0x19⟩
  | .g26 => ⟨6, 0x3F, 0x1A⟩
  | .g27 => ⟨6, 0x3F, 0x1B⟩
  | .g28 => ⟨6, 0x3F, 0x1C⟩
  | .g29 => ⟨6, 0x3F, 0x1D⟩
  | .g30 => ⟨6, 0x3F, 0x1E⟩
  | .g31 => ⟨6, 0x3F, 0x1F⟩
  | .h32 => ⟨6, 0x3F, 0x20⟩
  | .h33 => ⟨6, 0x3F, 0x21⟩
  | .h34 => ⟨6, 0x3F, 0x22⟩
  | .h35 => ⟨6, 0x3F, 0x23⟩
  | .h36 => ⟨6, 0x3F, 0x24⟩
  | .h37 => ⟨6, 0x3F, 0x25⟩
  | .h38 => ⟨6, 0x3F, 0x26⟩
  | .h39 => ⟨6, 0x3F, 0x27⟩
  | .h40 => ⟨6, 0x3F, 0x28⟩
  | .h41 => ⟨6, 0x3F, 0x29⟩
  | .h42 => ⟨6, 0x3F, 0x2A⟩
  | .h43 => ⟨6, 0x3F, 0x2B⟩
  | .h44 => ⟨6, 0x3F, 0x2C⟩
  | .h45 => ⟨6, 0x3F, 0x2D⟩
  | .h46 => ⟨6, 0x3F, 0x2E⟩
  | .h47 => ⟨6, 0x3F, 0x2F⟩
  | .i48 => ⟨6, 0x3F, 0x30⟩
  | .i49 => ⟨6, 0x3F, 0x31⟩
  | .i50 => ⟨6, 0x3F, 0x32⟩
  | .i51 => ⟨6, 0x3F, 0x33⟩
  | .i52 => ⟨6, 0x3F, 0x34⟩
  | .i53 => ⟨6, 0x3F, 0x35⟩
  | .i54 => ⟨6, 0x3F, 0x36⟩
  | .i55 => ⟨6, 0x3F, 0x37⟩
  | .i56 => ⟨6, 0x3F, 0x38⟩
  | .i57 => ⟨6, 0x3F, 0x39⟩
  | .i58 => ⟨6, 0x3F, 0x3A⟩
  | .i59 => ⟨6, 0x3F, 0x3B⟩
  | .i60 => ⟨6, 0x3F, 0x3C⟩
  | .i61 => ⟨6, 0x3F, 0x3D⟩
  | .i62 => ⟨6, 0x3F, 0x3E⟩
  | .i63 => ⟨6, 0x3F, 0x3F⟩
  | .fnF => ⟨2, 0x3, 0x0⟩
  | .fnG => ⟨2, 0x3, 0x1⟩
  | .fnH => ⟨2, 0x3, 0x2⟩
  | .fnI => ⟨2, 0x3, 0x3⟩
  | .rotl _ => ⟨5, 0x00, 0x00⟩

/-- The encoding of an instruction lies in its row. -/
def Statement (i : Instr) : Prop :=
  widthOf (encode i) = (rowOf i).width ∧ bitsOf (encode i) &&& (rowOf i).mask = (rowOf i).pattern

/-- The fields of a `PUTC` word do not overlap: the sum is a concatenation (30_encoding.md R72, R73). -/
theorem putc_word (cp : BitVec 21) : 0x02000000#32 + cp.setWidth 32 = (0x010#11 ++ cp : BitVec 32) := by
  apply BitVec.eq_of_toNat_eq
  have h := cp.isLt
  rw [BitVec.toNat_append, ← Nat.shiftLeft_add_eq_or_of_lt h, Nat.shiftLeft_eq]
  simp only [BitVec.toNat_add, BitVec.toNat_setWidth, BitVec.toNat_ofNat]
  omega

theorem init : Statement .init := ⟨rfl, rfl⟩
theorem putc (cp : BitVec 21) : Statement (.putc cp) := by
  refine ⟨rfl, ?_⟩
  have h : (0x02000000#32 + cp.setWidth 32) &&& 0xFFE00000#32 = 0x02000000#32 := by
    rw [putc_word, show 0xFFE00000#32 = (0x7FF#11 ++ 0#21 : BitVec 32) from rfl, BitVec.and_append]
    simp
  simpa [bitsOf, encode, rowOf] using congrArg BitVec.toNat h

theorem final : Statement .final := ⟨rfl, rfl⟩
theorem f00 : Statement .f00 := ⟨rfl, rfl⟩
theorem f01 : Statement .f01 := ⟨rfl, rfl⟩
theorem f02 : Statement .f02 := ⟨rfl, rfl⟩
theorem f03 : Statement .f03 := ⟨rfl, rfl⟩
theorem f04 : Statement .f04 := ⟨rfl, rfl⟩
theorem f05 : Statement .f05 := ⟨rfl, rfl⟩
theorem f06 : Statement .f06 := ⟨rfl, rfl⟩
theorem f07 : Statement .f07 := ⟨rfl, rfl⟩
theorem f08 : Statement .f08 := ⟨rfl, rfl⟩
theorem f09 : Statement .f09 := ⟨rfl, rfl⟩
theorem f10 : Statement .f10 := ⟨rfl, rfl⟩
theorem f11 : Statement .f11 := ⟨rfl, rfl⟩
theorem f12 : Statement .f12 := ⟨rfl, rfl⟩
theorem f13 : Statement .f13 := ⟨rfl, rfl⟩
theorem f14 : Statement .f14 := ⟨rfl, rfl⟩
theorem f15 : Statement .f15 := ⟨rfl, rfl⟩
theorem g16 : Statement .g16 := ⟨rfl, rfl⟩
theorem g17 : Statement .g17 := ⟨rfl, rfl⟩
theorem g18 : Statement .g18 := ⟨rfl, rfl⟩
theorem g19 : Statement .g19 := ⟨rfl, rfl⟩
theorem g20 : Statement .g20 := ⟨rfl, rfl⟩
theorem g21 : Statement .g21 := ⟨rfl, rfl⟩
theorem g22 : Statement .g22 := ⟨rfl, rfl⟩
theorem g23 : Statement .g23 := ⟨rfl, rfl⟩
theorem g24 : Statement .g24 := ⟨rfl, rfl⟩
theorem g25 : Statement .g25 := ⟨rfl, rfl⟩
theorem g26 : Statement .g26 := ⟨rfl, rfl⟩
theorem g27 : Statement .g27 := ⟨rfl, rfl⟩
theorem g28 : Statement .g28 := ⟨rfl, rfl⟩
theorem g29 : Statement .g29 := ⟨rfl, rfl⟩
theorem g30 : Statement .g30 := ⟨rfl, rfl⟩
theorem g31 : Statement .g31 := ⟨rfl, rfl⟩
theorem h32 : Statement .h32 := ⟨rfl, rfl⟩
theorem h33 : Statement .h33 := ⟨rfl, rfl⟩
theorem h34 : Statement .h34 := ⟨rfl, rfl⟩
theorem h35 : Statement .h35 := ⟨rfl, rfl⟩
theorem h36 : Statement .h36 := ⟨rfl, rfl⟩
theorem h37 : Statement .h37 := ⟨rfl, rfl⟩
theorem h38 : Statement .h38 := ⟨rfl, rfl⟩
theorem h39 : Statement .h39 := ⟨rfl, rfl⟩
theorem h40 : Statement .h40 := ⟨rfl, rfl⟩
theorem h41 : Statement .h41 := ⟨rfl, rfl⟩
theorem h42 : Statement .h42 := ⟨rfl, rfl⟩
theorem h43 : Statement .h43 := ⟨rfl, rfl⟩
theorem h44 : Statement .h44 := ⟨rfl, rfl⟩
theorem h45 : Statement .h45 := ⟨rfl, rfl⟩
theorem h46 : Statement .h46 := ⟨rfl, rfl⟩
theorem h47 : Statement .h47 := ⟨rfl, rfl⟩
theorem i48 : Statement .i48 := ⟨rfl, rfl⟩
theorem i49 : Statement .i49 := ⟨rfl, rfl⟩
theorem i50 : Statement .i50 := ⟨rfl, rfl⟩
theorem i51 : Statement .i51 := ⟨rfl, rfl⟩
theorem i52 : Statement .i52 := ⟨rfl, rfl⟩
theorem i53 : Statement .i53 := ⟨rfl, rfl⟩
theorem i54 : Statement .i54 := ⟨rfl, rfl⟩
theorem i55 : Statement .i55 := ⟨rfl, rfl⟩
theorem i56 : Statement .i56 := ⟨rfl, rfl⟩
theorem i57 : Statement .i57 := ⟨rfl, rfl⟩
theorem i58 : Statement .i58 := ⟨rfl, rfl⟩
theorem i59 : Statement .i59 := ⟨rfl, rfl⟩
theorem i60 : Statement .i60 := ⟨rfl, rfl⟩
theorem i61 : Statement .i61 := ⟨rfl, rfl⟩
theorem i62 : Statement .i62 := ⟨rfl, rfl⟩
theorem i63 : Statement .i63 := ⟨rfl, rfl⟩
theorem fnF : Statement .fnF := ⟨rfl, rfl⟩
theorem fnG : Statement .fnG := ⟨rfl, rfl⟩
theorem fnH : Statement .fnH := ⟨rfl, rfl⟩
theorem fnI : Statement .fnI := ⟨rfl, rfl⟩
theorem rotl (s : BitVec 5) : Statement (.rotl s) := ⟨rfl, Nat.and_zero _⟩

end Sys2Proof.Laws.TableRow
end

