-- ==== Sys2Proof/Laws/Step.lean ====
section
/-! SUPPORT. What one step can do, said once: how a command word is executed, what a micro-operation can write,
and the inversion of the step by the kind of event it took. -/

namespace Sys2Proof.Machine

/-- A command word decodes to a command, never to a micro-operation (30_encoding.md R82). -/
theorem decodeCommand_instr {w : BitVec 32} {i : Instr} (h : decodeCommand w = .instr i) :
    i = .init ∨ (∃ cp, i = .putc cp) ∨ i = .final := by
  unfold decodeCommand at h
  split_ifs at h <;> cases h <;> simp

/-- In `FAULT` a command word is ignored (60_exceptions.md R294). -/
theorem executeWord_fault {s : State} (w : BitVec 32) (hp : s.phase = .fault) :
    executeWord w s = .next s := by
  simp only [executeWord, hp]

/-- An undecodable word outside `FAULT` (45_commands.md R265). -/
theorem executeWord_reject {s : State} {w : BitVec 32} {why : Reject} (hp : s.phase ≠ .fault)
    (hd : decodeCommand w = .reject why) : executeWord w s = .next (raise .illcmd s) := by
  unfold executeWord
  cases h : s.phase <;> simp_all

/-- A command outside `FAULT` (45_commands.md R265). -/
theorem executeWord_instr {s : State} {w : BitVec 32} {i : Instr} (hp : s.phase ≠ .fault)
    (hd : decodeCommand w = .instr i) : executeWord w s = exec i s := by
  unfold executeWord
  cases h : s.phase <;> simp_all

/-- A step with an event pending executes that event on the state without it. -/
theorem step_cons {s : State} {e : Event} {rest : List Event} (h : s.pending = e :: rest) :
    step s = executeEvent e { s with pending := rest } := by
  simp only [step, executeNext, h]

/-- A step with no event pending holds the state (60_exceptions.md R303). -/
theorem step_nil {s : State} (h : s.pending = []) : step s = .next s := by
  simp only [step, executeNext, h]

/-- A step's meaning completes and writes only the working registers and the step's signals
(43_compress.md R166). -/
theorem applyStep_frame (fsel : BitVec 2) (k : BitVec 4) (amount : BitVec 5) (t : Word) (s : State) :
    ∃ (w : Chain) (f u r : Word),
      (.next (applyStep fsel k amount t s) : Host.Outcome State Fault Refusal) =
        .next { s with a := w.A, b := w.B, c := w.C, d := w.D, f := f, sum := u, rot := r } :=
  ⟨⟨_, _, _, _⟩, _, _, _, rfl⟩

/-- Every instruction but the three commands completes and writes only the working registers and the step's
signals (42_alu.md R140; 43_compress.md R166). -/
theorem exec_micro {i : Instr} (h1 : i ≠ .init) (h2 : ∀ cp, i ≠ .putc cp) (h3 : i ≠ .final) (s : State) :
    ∃ (w : Chain) (f u r : Word),
      exec i s = .next { s with a := w.A, b := w.B, c := w.C, d := w.D, f := f, sum := u, rot := r } := by
  cases i
  case init => exact absurd rfl h1
  case putc cp => exact absurd rfl (h2 cp)
  case final => exact absurd rfl h3
  case fnF => exact ⟨workingOf s, _, s.sum, s.rot, rfl⟩
  case fnG => exact ⟨workingOf s, _, s.sum, s.rot, rfl⟩
  case fnH => exact ⟨workingOf s, _, s.sum, s.rot, rfl⟩
  case fnI => exact ⟨workingOf s, _, s.sum, s.rot, rfl⟩
  case rotl n => exact ⟨workingOf s, s.f, s.sum, _, rfl⟩
  all_goals exact applyStep_frame _ _ _ _ s

/-- The step a step index selects is none of the commands (30_encoding.md R76). -/
theorem decodeStep_micro (i : BitVec 6) :
    decodeStep i ≠ .init ∧ (∀ cp, decodeStep i ≠ .putc cp) ∧ decodeStep i ≠ .final := by
  have h : ∀ i : BitVec 6, ∃ w, encode (decodeStep i) = .step6 w := by
    intro i
    exact ⟨i, by revert i; decide +kernel⟩
  obtain ⟨w, hw⟩ := h i
  refine ⟨?_, ?_, ?_⟩
  · intro e; rw [e] at hw; cases hw
  · intro cp e; rw [e] at hw; cases hw
  · intro e; rw [e] at hw; cases hw

/-- The function a select names is none of the commands (30_encoding.md R77). -/
theorem decodeSelect_micro (f : BitVec 2) :
    decodeSelect f ≠ .init ∧ (∀ cp, decodeSelect f ≠ .putc cp) ∧ decodeSelect f ≠ .final := by
  have h : ∀ f : BitVec 2, ∃ w, encode (decodeSelect f) = .fsel2 w := by
    intro f
    exact ⟨f, by revert f; decide +kernel⟩
  obtain ⟨w, hw⟩ := h f
  refine ⟨?_, ?_, ?_⟩
  · intro e; rw [e] at hw; cases hw
  · intro cp e; rw [e] at hw; cases hw
  · intro e; rw [e] at hw; cases hw

/-- The meaning of the step an index selects is the template at that index (43_compress.md R163 to R166). -/
theorem exec_decodeStep (i : BitVec 6) (s : State) :
    exec (decodeStep i) s =
      .next (applyStep (stepRound i) (stepWord i) (stepShift i) (stepConst i) s) := by
  obtain ⟨n, hn, rfl⟩ : ∃ n, n < 64 ∧ i = BitVec.ofNat 6 n := ⟨i.toNat, i.isLt, by simp⟩
  interval_cases n <;> rfl

/-- One more step of a run, on any machine of the host's interface. -/
theorem run_next (M : Host.Core) (n : Nat) {s t : M.State} (h : M.step s = .next t) :
    M.run (n + 1) s = M.run n t := by
  rw [Host.Core.run, h]

/-- Everything one step can have done, by the event it took (45_commands.md R265, R266, R268, R270;
60_exceptions.md R293, R294; 70_reset_and_hazards.md R320). -/
inductive StepCase (s t : State) : Prop
  | idle (h : s.pending = []) (e : t = s)
  | ignored (w : BitVec 32) (rest : List Event) (h : s.pending = .command w :: rest) (hp : s.phase = .fault)
      (e : t = { s with pending := rest })
  | illcmd (w : BitVec 32) (rest : List Event) (why : Reject) (h : s.pending = .command w :: rest)
      (hp : s.phase ≠ .fault) (hd : decodeCommand w = .reject why)
      (e : t = raise .illcmd { s with pending := rest })
  | seq (w : BitVec 32) (rest : List Event) (i : Instr) (h : s.pending = .command w :: rest)
      (hp : s.phase = .done) (hd : decodeCommand w = .instr i) (hi : i = .final ∨ ∃ cp, i = .putc cp)
      (e : t = raise .seq { s with pending := rest })
  | badcp (w : BitVec 32) (rest : List Event) (cp : BitVec 21) (h : s.pending = .command w :: rest)
      (hp : s.phase = .absorb) (hd : decodeCommand w = .instr (.putc cp)) (hb : utf8Bytes cp = none)
      (e : t = raise .badcp { s with pending := rest })
  | init (w : BitVec 32) (rest : List Event) (h : s.pending = .command w :: rest) (hp : s.phase ≠ .fault)
      (hd : decodeCommand w = .instr .init) (e : t = openMessage { s with pending := rest })
  | putc (w : BitVec 32) (rest : List Event) (cp : BitVec 21) (bs : List Byte)
      (h : s.pending = .command w :: rest) (hp : s.phase = .absorb)
      (hd : decodeCommand w = .instr (.putc cp)) (hb : utf8Bytes cp = some bs)
      (e : t = closeCommand (appendBytes bs (latchBytes bs { s with pending := rest })))
  | final (w : BitVec 32) (rest : List Event) (h : s.pending = .command w :: rest) (hp : s.phase = .absorb)
      (hd : decodeCommand w = .instr .final)
      (e : t = closeCommand { serialize (pad { s with pending := rest }) with phase := .done })
  | reset (rest : List Event) (h : s.pending = .reset :: rest) (e : t = resetCore { s with pending := rest })
  | micro (ev : Event) (rest : List Event) (h : s.pending = ev :: rest)
      (hm : ev = .load ∨ ev = .step ∨ (∃ fsel, ev = .select fsel) ∨ ∃ n, ev = .rotate n)
      (e : ∃ (w : Chain) (i : BitVec 6) (f u r : Word),
        t = { s with a := w.A, b := w.B, c := w.C, d := w.D, I := i, f := f, sum := u, rot := r,
                     pending := rest })

/-- The cases of a step that takes a command word. -/
theorem step_cases_command {s t : State} {w : BitVec 32} {rest : List Event}
    (hp : s.pending = .command w :: rest) (h : executeWord w { s with pending := rest } = .next t) :
    StepCase s t := by
  obtain ⟨u, hu⟩ : ∃ u, u = { s with pending := rest } := ⟨_, rfl⟩
  have hph : u.phase = s.phase := by rw [hu]
  rw [← hu] at h
  by_cases hf : u.phase = .fault
  · rw [executeWord_fault w hf] at h
    exact .ignored w rest hp (hph ▸ hf) ((Host.Outcome.next.inj h).symm.trans hu)
  have hf' : s.phase ≠ .fault := hph ▸ hf
  cases hd : decodeCommand w with
  | reject why =>
    rw [executeWord_reject hf hd] at h
    exact .illcmd w rest why hp hf' hd (by rw [← hu]; exact (Host.Outcome.next.inj h).symm)
  | instr i =>
    rw [executeWord_instr hf hd] at h
    rcases decodeCommand_instr hd with rfl | ⟨cp, rfl⟩ | rfl
    · rw [exec, execInit_open hf] at h
      exact .init w rest hp hf' hd (by rw [← hu]; exact (Host.Outcome.next.inj h).symm)
    · rw [exec] at h
      rcases Classical.em (u.phase = .absorb) with hq | hq
      · cases hb : utf8Bytes cp with
        | none =>
          rw [execPutc_bad hq hb] at h
          exact .badcp w rest cp hp (hph ▸ hq) hd hb (by rw [← hu]; exact (Host.Outcome.next.inj h).symm)
        | some bs =>
          rw [execPutc_legal hq hb] at h
          exact .putc w rest cp bs hp (hph ▸ hq) hd hb (by rw [← hu]; exact (Host.Outcome.next.inj h).symm)
      · have hq' : u.phase = .done := by cases hx : u.phase <;> simp_all
        rw [execPutc_done cp hq'] at h
        exact .seq w rest _ hp (hph ▸ hq') hd (.inr ⟨cp, rfl⟩)
          (by rw [← hu]; exact (Host.Outcome.next.inj h).symm)
    · rw [exec] at h
      rcases Classical.em (u.phase = .absorb) with hq | hq
      · rw [execFinal_absorb hq] at h
        exact .final w rest hp (hph ▸ hq) hd (by rw [← hu]; exact (Host.Outcome.next.inj h).symm)
      · have hq' : u.phase = .done := by cases hx : u.phase <;> simp_all
        rw [execFinal_done hq'] at h
        exact .seq w rest _ hp (hph ▸ hq') hd (.inl rfl)
          (by rw [← hu]; exact (Host.Outcome.next.inj h).symm)

/-- If a step answers a next state, it is one of the cases. -/
theorem step_cases {s t : State} (h : step s = .next t) : StepCase s t := by
  cases hp : s.pending with
  | nil => rw [step_nil hp] at h; exact .idle hp (Host.Outcome.next.inj h).symm
  | cons e rest =>
    rw [step_cons hp] at h
    have micro : ∀ i : Instr, i ≠ .init → (∀ cp, i ≠ .putc cp) → i ≠ .final →
        exec i { s with pending := rest } = .next t →
        ∃ (w : Chain) (i : BitVec 6) (f u r : Word),
          t = { s with a := w.A, b := w.B, c := w.C, d := w.D, I := i, f := f, sum := u, rot := r,
                       pending := rest } := by
      intro i h1 h2 h3 ht
      obtain ⟨w, f, u, r, hx⟩ := exec_micro h1 h2 h3 { s with pending := rest }
      rw [hx] at ht
      exact ⟨w, s.I, f, u, r, (Host.Outcome.next.inj ht).symm⟩
    cases e with
    | command w => exact step_cases_command hp h
    | reset => exact .reset rest hp (Host.Outcome.next.inj h).symm
    | load =>
      exact .micro _ rest hp (.inl rfl) ⟨chainOf s, 0, s.f, s.sum, s.rot, (Host.Outcome.next.inj h).symm⟩
    | step =>
      have hm := decodeStep_micro s.I
      obtain ⟨w, f, u, r, hx⟩ := exec_micro hm.1 hm.2.1 hm.2.2 { s with pending := rest }
      simp only [executeEvent, hx, afterStep, advanceIndex_eq] at h
      exact .micro _ rest hp (.inr (.inl rfl)) ⟨w, _, f, u, r, (Host.Outcome.next.inj h).symm⟩
    | select f =>
      have hm := decodeSelect_micro f
      exact .micro _ rest hp (.inr (.inr (.inl ⟨f, rfl⟩))) (micro _ hm.1 hm.2.1 hm.2.2 h)
    | rotate n =>
      exact .micro _ rest hp (.inr (.inr (.inr ⟨n, rfl⟩))) (micro (.rotl n) (by simp) (by simp) (by simp) h)

end Sys2Proof.Machine
end

