-- ==== Sys2Proof/Tests/Slice0.lean ====
section
/-! SUPPORT. Tests. Expected values are the spec's own worked examples and vectors, or words written out from its
encodings; each theorem names its source. At the end, one named witness for each statement that has hypotheses. -/

set_option Elab.async false

open Sys2Proof Sys2Proof.Machine Sys2Proof.Claims

namespace Sys2Proof.Tests

/-- The outcome is a next state that passes a check. -/
def nextIs (o : Host.Outcome State Fault Refusal) (p : State → Bool) : Bool :=
  match o with
  | .next t => p t
  | .fault _ => false
  | .refused _ => false

/-- What `nextIs` says. -/
theorem exists_of_nextIs {o : Host.Outcome State Fault Refusal} {p : State → Bool} (h : nextIs o p = true) :
    ∃ t, o = .next t ∧ p t = true := by
  cases o with
  | next t => exact ⟨t, rfl, h⟩
  | fault r => cases h
  | refused r => cases h

/-- The characters of a text as bytes. -/
def ascii (s : String) : List Byte := s.toList.map (fun c => BitVec.ofNat 8 c.toNat)

/-- A state with an event pending. -/
def withEvent (e : Event) (s : State) : State := { s with pending := [e] }

/-- After `PUTC 'h'`, `PUTC 'i'` from reset (95_test_vectors.md P7). -/
def openState : State := { State.reset with buf := [(0, 0x68#8), (1, 0x69#8)], fill := 2, nbytes := 2 }

/-- After `n` letters `a` from reset, `n` below 64 (41_padder.md R129). -/
def letters (n : Nat) : State :=
  { State.reset with
    buf := (List.range n).map (fun i => (i, 0x61#8)), fill := BitVec.ofNat 6 n, nbytes := BitVec.ofNat 61 n }

/-- A state in `DONE`, with the digest of the initial value (44_serializer.md R254, third row). -/
def doneState : State := { serialize State.reset with phase := .done }

/-- An open message with something in every hidden register and step signal. -/
def dirtyState : State :=
  { openState with
    a := 1, b := 2, c := 3, d := 4, I := 5, encb := Vector.replicate 4 0xff#8, encn := 4, f := 6, sum := 7, rot := 8 }

/-- A state in `FAULT`. -/
def faultState : State := raise .badcp openState

/-- The block of the empty message and a working tuple (43_compress.md R170). -/
def emptyBlock (w : Chain) : State :=
  { State.reset with buf := [(0, 0x80#8)], a := w.A, b := w.B, c := w.C, d := w.D }

/-- The block of the message "hello" and a working tuple (95_test_vectors.md section 2.1). -/
def helloBlock (w : Chain) : State :=
  { State.reset with
    buf := [(0, 0x68#8), (1, 0x65#8), (2, 0x6c#8), (3, 0x6c#8), (4, 0x6f#8), (5, 0x80#8), (56, 0x28#8)],
    a := w.A, b := w.B, c := w.C, d := w.D }

/-- A step gives `f`, the four-term sum, its rotation and the working tuple afterwards. -/
def stepGives (i : Instr) (s : State) (f sum rot : Word) (after : Chain) : Bool :=
  nextIs (exec i s) fun t => decide (t.f = f ∧ t.sum = sum ∧ t.rot = rot ∧ workingOf t = after)

-- Well-formedness.

/-- An ill-formed term for each check of an assembler operand and line (30_encoding.md R80, R81): the value, no
digit, seven digits after `U+`, a digit that is none in its base, and a text with such a code point. -/
theorem test_wellFormed_operand_value : (AsmOperand.hexadecimal [2, 0, 0, 0, 0, 0]).wellFormed = false := by decide
theorem test_wellFormed_operand_largest :
    (AsmOperand.hexadecimal [1, 15, 15, 15, 15, 15]).wellFormed = true := by decide
theorem test_wellFormed_no_digit : (AsmOperand.codePoint []).wellFormed = false := by decide
theorem test_wellFormed_seven_digits : (AsmOperand.codePoint [0, 0, 0, 0, 0, 6, 8]).wellFormed = false := by decide
theorem test_wellFormed_hex_digit : (AsmOperand.codePoint [1, 16]).wellFormed = false := by decide
theorem test_wellFormed_no_hexadecimal_digit : (AsmOperand.hexadecimal []).wellFormed = false := by decide
theorem test_wellFormed_hexadecimal_digit : (AsmOperand.hexadecimal [16]).wellFormed = false := by decide
theorem test_wellFormed_no_decimal_digit : (AsmOperand.decimal []).wellFormed = false := by decide
theorem test_wellFormed_decimal_digit : (AsmOperand.decimal [10]).wellFormed = false := by decide
theorem test_wellFormed_quoted : (AsmOperand.quoted 0x200000).wellFormed = false := by decide
theorem test_wellFormed_puts : (AsmLine.puts [0x41, 0x200000]).wellFormed = false := by decide
theorem test_wellFormed_hash : (AsmLine.hash [0x200000]).wellFormed = false := by decide
theorem test_wellFormed_putc : (AsmLine.putc (.decimal [])).wellFormed = false := by decide

/-- Every instruction's operand type carries exactly the bits its field has, so no term of `Instr` is ill formed;
the largest operands pass (30_encoding.md R74, R78). -/
theorem test_wellFormed_instr :
    (Instr.putc 0x1FFFFF#21).wellFormed = true ∧ (Instr.rotl 31#5).wellFormed = true := by decide

/-- A word that fails each of the three checks of 30_encoding.md R75, and that one alone. -/
theorem test_commandOpcKnown : commandOpcKnown 0x04000000#32 = false ∧ commandRsvZero 0x04000000#32 = true := by
  decide
theorem test_commandRsvZero : commandRsvZero 0x02200041#32 = false ∧ commandOpcKnown 0x02200041#32 = true ∧
    commandOperandFits 0x02200041#32 = true := by decide
theorem test_commandOperandFits : commandOperandFits 0x03000001#32 = false ∧ commandOpcKnown 0x03000001#32 = true ∧
    commandRsvZero 0x03000001#32 = true := by decide
theorem test_commandWellFormed : commandWellFormed 0x04000000#32 = false ∧ commandWellFormed 0x02200041#32 = false ∧
    commandWellFormed 0x03000001#32 = false ∧ commandWellFormed 0x021FFFFF#32 = true := by decide

-- Decoding: words written out bit by bit from the encodings of 30_encoding.md R72 to R78.

theorem test_decode_init :
    decode (.cmd32 0b00000001_000_000000000000000000000#32) = .instr .init := by decide
theorem test_decode_putc :
    decode (.cmd32 0b00000010_000_000000010000010101100#32) = .instr (.putc 0x20AC#21) := by decide
theorem test_decode_putc_largest :
    decode (.cmd32 0b00000010_000_111111111111111111111#32) = .instr (.putc 0x1FFFFF#21) := by decide
theorem test_decode_final :
    decode (.cmd32 0b00000011_000_000000000000000000000#32) = .instr .final := by decide
/-- The undecodable words of 95_test_vectors.md P8, each by its class (30_encoding.md R75). -/
theorem test_decode_rejects :
    decode (.cmd32 0x00000000#32) = .reject .reservedOpcode ∧ decode (.cmd32 0xffffffff#32) = .reject .reservedOpcode ∧
    decode (.cmd32 0x04000000#32) = .reject .reservedOpcode ∧ decode (.cmd32 0x05000000#32) = .reject .reservedOpcode ∧
    decode (.cmd32 0x01000001#32) = .reject .operandNotZero ∧ decode (.cmd32 0x02200041#32) = .reject .reservedField := by
  decide
theorem test_decode_round0 :
    [0b000000#6, 0b000001#6, 0b000010#6, 0b000011#6, 0b000100#6, 0b000101#6, 0b000110#6, 0b000111#6,
     0b001000#6, 0b001001#6, 0b001010#6, 0b001011#6, 0b001100#6, 0b001101#6, 0b001110#6, 0b001111#6].map (fun i => decode (.step6 i)) =
    [.instr .f00, .instr .f01, .instr .f02, .instr .f03, .instr .f04, .instr .f05, .instr .f06, .instr .f07,
     .instr .f08, .instr .f09, .instr .f10, .instr .f11, .instr .f12, .instr .f13, .instr .f14, .instr .f15] := by decide
theorem test_decode_round1 :
    [0b010000#6, 0b010001#6, 0b010010#6, 0b010011#6, 0b010100#6, 0b010101#6, 0b010110#6, 0b010111#6,
     0b011000#6, 0b011001#6, 0b011010#6, 0b011011#6, 0b011100#6, 0b011101#6, 0b011110#6, 0b011111#6].map (fun i => decode (.step6 i)) =
    [.instr .g16, .instr .g17, .instr .g18, .instr .g19, .instr .g20, .instr .g21, .instr .g22, .instr .g23,
     .instr .g24, .instr .g25, .instr .g26, .instr .g27, .instr .g28, .instr .g29, .instr .g30, .instr .g31] := by decide
theorem test_decode_round2 :
    [0b100000#6, 0b100001#6, 0b100010#6, 0b100011#6, 0b100100#6, 0b100101#6, 0b100110#6, 0b100111#6,
     0b101000#6, 0b101001#6, 0b101010#6, 0b101011#6, 0b101100#6, 0b101101#6, 0b101110#6, 0b101111#6].map (fun i => decode (.step6 i)) =
    [.instr .h32, .instr .h33, .instr .h34, .instr .h35, .instr .h36, .instr .h37, .instr .h38, .instr .h39,
     .instr .h40, .instr .h41, .instr .h42, .instr .h43, .instr .h44, .instr .h45, .instr .h46, .instr .h47] := by decide
theorem test_decode_round3 :
    [0b110000#6, 0b110001#6, 0b110010#6, 0b110011#6, 0b110100#6, 0b110101#6, 0b110110#6, 0b110111#6,
     0b111000#6, 0b111001#6, 0b111010#6, 0b111011#6, 0b111100#6, 0b111101#6, 0b111110#6, 0b111111#6].map (fun i => decode (.step6 i)) =
    [.instr .i48, .instr .i49, .instr .i50, .instr .i51, .instr .i52, .instr .i53, .instr .i54, .instr .i55,
     .instr .i56, .instr .i57, .instr .i58, .instr .i59, .instr .i60, .instr .i61, .instr .i62, .instr .i63] := by decide
theorem test_decode_select : [0b00#2, 0b01#2, 0b10#2, 0b11#2].map (fun f => decode (.fsel2 f)) =
    [.instr .fnF, .instr .fnG, .instr .fnH, .instr .fnI] := by decide
theorem test_decode_rotate : decode (.rot5 0b00000#5) = .instr (.rotl 0#5) ∧
    decode (.rot5 0b10110#5) = .instr (.rotl 22#5) ∧ decode (.rot5 0b11111#5) = .instr (.rotl 31#5) := by decide

/-- Reading a table row's bits: a command, a step, a select and an amount (spec/opcode_table.json). -/
theorem test_decodeTableWord : decodeTableWord 32 0x02000068 = some (.putc 0x68#21) ∧
    decodeTableWord 8 0x3F = some .i63 ∧ decodeTableWord 6 0x10 = some .g16 ∧ decodeTableWord 2 3 = some .fnI ∧
    decodeTableWord 5 23 = some (.rotl 23#5) ∧ decodeTableWord 32 0 = none ∧ decodeTableWord 8 0x40 = none := by
  decide

-- The assembler (30_encoding.md R80, R81).

theorem test_assemble_init : assemble "INIT ; a comment".toList = some [0x01000000#32] := by decide +kernel
theorem test_assemble_final : assemble "  FINAL".toList = some [0x03000000#32] := by decide +kernel
theorem test_assemble_putc : assemble "PUTC U+20AC".toList = some [0x020020AC#32] := by decide +kernel
theorem test_assemble_quoted : assemble "PUTC 'h'".toList = some [0x02000068#32] := by decide +kernel
theorem test_assemble_hexadecimal : assemble "PUTC 0x1F600".toList = some [0x0201F600#32] := by decide +kernel
theorem test_assemble_surrogate : assemble "PUTC 55296".toList = some [0x0200D800#32] := by decide +kernel
theorem test_assemble_too_large : assemble "PUTC 0x200000".toList = none := by decide +kernel
theorem test_assemble_lower_case : assemble "init".toList = none := by decide +kernel
theorem test_assemble_operand : assemble "INIT 1".toList = none := by decide +kernel
/-- `HASH "hello"` is the words of 95_test_vectors.md P2. -/
theorem test_assemble_hash :
    assemble ("HASH ".toList ++ [doubleQuote] ++ "hello".toList ++ [doubleQuote]) =
      some [0x01000000#32, 0x02000068#32, 0x02000065#32, 0x0200006c#32, 0x0200006c#32, 0x0200006f#32,
            0x03000000#32] := by decide +kernel
theorem test_assemble_puts_empty : assemble ("PUTS ".toList ++ [doubleQuote, doubleQuote]) = some [] := by
  decide +kernel
/-- A semicolon in a text is no comment (log entry 12). -/
theorem test_assemble_puts_semicolon : assemble ("PUTS ".toList ++ [doubleQuote, ';', doubleQuote]) =
    some [0x0200003b#32] := by decide +kernel

-- The block buffer.

/-- A word is little-endian; the bytes are those of 45_commands.md R277 for U+1F600. -/
theorem test_readWord : readWord { State.reset with buf := [(0, 0xf0#8), (1, 0x9f#8), (2, 0x98#8), (3, 0x80#8)] } 0 =
    0x80989ff0#32 := by decide
theorem test_writeWord :
    (writeWord openState 15 0x00000100#32).buf = [(0, 0x68#8), (1, 0x69#8), (61, 0x01#8)] := by decide
theorem test_write_zero_unlists : (writeByte openState 0 0x00#8).buf = [(1, 0x69#8)] := by decide
/-- An ill-formed buffer for each condition of the canonical form. -/
theorem test_wf_order : Memory.wf [(1, 0x01#8), (0, 0x01#8)] = false := by decide
theorem test_wf_repeat : Memory.wf [(1, 0x01#8), (1, 0x02#8)] = false := by decide
theorem test_wf_zero : Memory.wf [(1, 0x00#8)] = false := by decide
theorem test_wf_range : Memory.wf [(64, 0x01#8)] = false := by decide

-- The datapath (42_alu.md R151).

theorem test_add32 : add32 0x00000001#32 0xffffffff#32 = 0 ∧ add32 0xd76aa478#32 0xffffffff#32 = 0xd76aa477#32 := by
  decide
theorem test_rotl32 : rotl32 0x12345678#32 0 = 0x12345678#32 ∧ rotl32 0x12345678#32 23 = 0x3c091a2b#32 ∧
    rotl32 0x80000001#32 31 = 0xc0000000#32 ∧ rotl32 0xd76aa477#32 7 = 0xb5523beb#32 := by decide
theorem test_functions :
    [0b00#2, 0b01#2, 0b10#2, 0b11#2].map (fun f => evalFn f 0x0f0f0f0f#32 0x33333333#32 0x55555555#32) =
      [0x53535353#32, 0x27272727#32, 0x69696969#32, 0x9c9c9c9c#32] := by decide
/-- The evaluator and the rotator on their own (42_alu.md R151, last row of the functions; R143). -/
theorem test_exec_fn :
    let s := { State.reset with b := 0x0f0f0f0f#32, c := 0x33333333#32, d := 0x55555555#32 }
    nextIs (exec .fnF s) (fun t => decide (t = { s with f := 0x53535353#32 })) = true ∧
    nextIs (exec .fnG s) (fun t => decide (t = { s with f := 0x27272727#32 })) = true ∧
    nextIs (exec .fnH s) (fun t => decide (t = { s with f := 0x69696969#32 })) = true ∧
    nextIs (exec .fnI s) (fun t => decide (t = { s with f := 0x9c9c9c9c#32 })) = true := by decide +kernel
theorem test_exec_rotl : nextIs (exec (.rotl 4) { State.reset with sum := 0x12345678#32 })
    (fun t => decide (t.rot = 0x23456781#32 ∧ t.sum = 0x12345678#32)) = true := by decide +kernel

-- The 64 steps: the example line of each step's rule (43_compress.md R172 to R235).

theorem test_step_f00 : stepGives .f00 (emptyBlock ⟨0x67452301#32, 0xefcdab89#32, 0x98badcfe#32, 0x10325476#32⟩)
    0x98badcfe#32 0xd76aa4f7#32 0xb5527beb#32 ⟨0x10325476#32, 0xa5202774#32, 0xefcdab89#32, 0x98badcfe#32⟩ = true := by decide +kernel
theorem test_step_f01 : stepGives .f01 (emptyBlock ⟨0x10325476#32, 0xa5202774#32, 0xefcdab89#32, 0x98badcfe#32⟩)
    0xbd9afb8a#32 0xb6950756#32 0x50756b69#32 ⟨0x98badcfe#32, 0xf59592dd#32, 0xa5202774#32, 0xefcdab89#32⟩ = true := by decide +kernel
theorem test_step_f02 : stepGives .f02 (emptyBlock ⟨0x98badcfe#32, 0xf59592dd#32, 0xa5202774#32, 0xefcdab89#32⟩)
    0xaf482b54#32 0x6c23792d#32 0xf25ad846#32 ⟨0xefcdab89#32, 0xe7f06b23#32, 0xf59592dd#32, 0xa5202774#32⟩ = true := by decide +kernel
theorem test_step_f03 : stepGives .f03 (emptyBlock ⟨0xefcdab89#32, 0xe7f06b23#32, 0xf59592dd#32, 0xa5202774#32⟩)
    0xe5900655#32 0x971b80cc#32 0x3325c6e0#32 ⟨0xa5202774#32, 0x1b163203#32, 0xe7f06b23#32, 0xf59592dd#32⟩ = true := by decide +kernel
theorem test_step_f04 : stepGives .f04 (emptyBlock ⟨0xa5202774#32, 0x1b163203#32, 0xe7f06b23#32, 0xf59592dd#32⟩)
    0xe791a2df#32 0x822dda02#32 0x16ed0141#32 ⟨0xf59592dd#32, 0x32033344#32, 0x1b163203#32, 0xe7f06b23#32⟩ = true := by decide +kernel
theorem test_step_f05 : stepGives .f05 (emptyBlock ⟨0xf59592dd#32, 0x32033344#32, 0x1b163203#32, 0xe7f06b23#32⟩)
    0xd7f27a23#32 0x150fd32a#32 0xfd32a150#32 ⟨0xe7f06b23#32, 0x2f35d494#32, 0x32033344#32, 0x1b163203#32⟩ = true := by decide +kernel
theorem test_step_f06 : stepGives .f06 (emptyBlock ⟨0xe7f06b23#32, 0x2f35d494#32, 0x32033344#32, 0x1b163203#32⟩)
    0x32033207#32 0xc223e33d#32 0xc67b8447#32 ⟨0x1b163203#32, 0xf5b158db#32, 0x2f35d494#32, 0x32033344#32⟩ = true := by decide +kernel
theorem test_step_f07 : stepGives .f07 (emptyBlock ⟨0x1b163203#32, 0xf5b158db#32, 0x2f35d494#32, 0x32033344#32⟩)
    0x27337394#32 0x3f903a98#32 0xa60fe40e#32 ⟨0x32033344#32, 0x9bc13ce9#32, 0xf5b158db#32, 0x2f35d494#32⟩ = true := by decide +kernel
theorem test_step_f08 : stepGives .f08 (emptyBlock ⟨0x32033344#32, 0x9bc13ce9#32, 0xf5b158db#32, 0x2f35d494#32⟩)
    0xb5b5d8dd#32 0x5139a4f9#32 0x9cd27ca8#32 ⟨0x2f35d494#32, 0x3893b991#32, 0x9bc13ce9#32, 0xf5b158db#32⟩ = true := by decide +kernel
theorem test_step_f09 : stepGives .f09 (emptyBlock ⟨0x2f35d494#32, 0x3893b991#32, 0x9bc13ce9#32, 0xf5b158db#32⟩)
    0xdda178cb#32 0x981c450e#32 0xc450e981#32 ⟨0xf5b158db#32, 0xfce4a312#32, 0x3893b991#32, 0x9bc13ce9#32⟩ = true := by decide +kernel
theorem test_step_f10 : stepGives .f10 (emptyBlock ⟨0xf5b158db#32, 0xfce4a312#32, 0x3893b991#32, 0x9bc13ce9#32⟩)
    0x3b81bdf9#32 0x31327285#32 0xe50a6264#32 ⟨0x9bc13ce9#32, 0xe1ef0576#32, 0xfce4a312#32, 0x3893b991#32⟩ = true := by decide +kernel
theorem test_step_f11 : stepGives .f11 (emptyBlock ⟨0x9bc13ce9#32, 0xe1ef0576#32, 0xfce4a312#32, 0x3893b991#32⟩)
    0xf8f4b993#32 0x1e12ce3a#32 0x8e8784b3#32 ⟨0x3893b991#32, 0x70768a29#32, 0xe1ef0576#32, 0xfce4a312#32⟩ = true := by decide +kernel
theorem test_step_f12 : stepGives .f12 (emptyBlock ⟨0x3893b991#32, 0x70768a29#32, 0xe1ef0576#32, 0xfce4a312#32⟩)
    0xece62132#32 0x9109ebe5#32 0x84f5f2c8#32 ⟨0xfce4a312#32, 0xf56c7cf1#32, 0x70768a29#32, 0xe1ef0576#32⟩ = true := by decide +kernel
theorem test_step_f13 : stepGives .f13 (emptyBlock ⟨0xfce4a312#32, 0xf56c7cf1#32, 0x70768a29#32, 0xe1ef0576#32⟩)
    0x70e70927#32 0x6b641dcc#32 0x41dcc6b6#32 ⟨0xe1ef0576#32, 0x374943a7#32, 0xf56c7cf1#32, 0x70768a29#32⟩ = true := by decide +kernel
theorem test_step_f14 : stepGives .f14 (emptyBlock ⟨0xe1ef0576#32, 0x374943a7#32, 0xf56c7cf1#32, 0x70768a29#32⟩)
    0x757ec8a9#32 0xfde711ad#32 0x235bfbce#32 ⟨0x70768a29#32, 0x5aa53f75#32, 0x374943a7#32, 0xf56c7cf1#32⟩ = true := by decide +kernel
theorem test_step_f15 : stepGives .f15 (emptyBlock ⟨0x70768a29#32, 0x5aa53f75#32, 0x374943a7#32, 0xf56c7cf1#32⟩)
    0xb74943a5#32 0x7173d5ef#32 0x7bdc5cf5#32 ⟨0xf56c7cf1#32, 0xd6819c6a#32, 0x5aa53f75#32, 0x374943a7#32⟩ = true := by decide +kernel
theorem test_step_g16 : stepGives .g16 (emptyBlock ⟨0xf56c7cf1#32, 0xd6819c6a#32, 0x5aa53f75#32, 0x374943a7#32⟩)
    0x5ea53c72#32 0x4a2fdec5#32 0x45fbd8a9#32 ⟨0x374943a7#32, 0x1c7d7513#32, 0xd6819c6a#32, 0x5aa53f75#32⟩ = true := by decide +kernel
theorem test_step_g17 : stepGives .g17 (emptyBlock ⟨0x374943a7#32, 0x1c7d7513#32, 0xd6819c6a#32, 0x5aa53f75#32⟩)
    0x9c25b51b#32 0x93afac02#32 0x5f580527#32 ⟨0x5aa53f75#32, 0x7bd57a3a#32, 0x1c7d7513#32, 0xd6819c6a#32⟩ = true := by decide +kernel
theorem test_step_g18 : stepGives .g18 (emptyBlock ⟨0x5aa53f75#32, 0x7bd57a3a#32, 0x1c7d7513#32, 0xd6819c6a#32⟩)
    0x5afd793b#32 0xdc011301#32 0x44c07700#32 ⟨0xd6819c6a#32, 0xc095f13a#32, 0x7bd57a3a#32, 0x1c7d7513#32⟩ = true := by decide +kernel
theorem test_step_g19 : stepGives .g19 (emptyBlock ⟨0xd6819c6a#32, 0xc095f13a#32, 0x7bd57a3a#32, 0x1c7d7513#32⟩)
    0x63957b3a#32 0x23cddfce#32 0xfce23cdd#32 ⟨0x1c7d7513#32, 0xbd782e17#32, 0xc095f13a#32, 0x7bd57a3a#32⟩ = true := by decide +kernel
theorem test_step_g20 : stepGives .g20 (emptyBlock ⟨0x1c7d7513#32, 0xbd782e17#32, 0xc095f13a#32, 0x7bd57a3a#32⟩)
    0xb950ab12#32 0xabfd3082#32 0x7fa61055#32 ⟨0x7bd57a3a#32, 0x3d1e3e6c#32, 0xbd782e17#32, 0xc095f13a#32⟩ = true := by decide +kernel
theorem test_step_g21 : stepGives .g21 (emptyBlock ⟨0x7bd57a3a#32, 0x3d1e3e6c#32, 0xbd782e17#32, 0xc095f13a#32⟩)
    0x3d7c3e2d#32 0xbb95ccba#32 0x2b997577#32 ⟨0xc095f13a#32, 0x68b7b3e3#32, 0x3d1e3e6c#32, 0xbd782e17#32⟩ = true := by decide +kernel
theorem test_step_g22 : stepGives .g22 (emptyBlock ⟨0xc095f13a#32, 0x68b7b3e3#32, 0x3d1e3e6c#32, 0xbd782e17#32⟩)
    0x2836326b#32 0xc16e0a26#32 0x8289b05b#32 ⟨0xbd782e17#32, 0xeb41643e#32, 0x68b7b3e3#32, 0x3d1e3e6c#32⟩ = true := by decide +kernel
theorem test_step_g23 : stepGives .g23 (emptyBlock ⟨0xbd782e17#32, 0xeb41643e#32, 0x68b7b3e3#32, 0x3d1e3e6c#32⟩)
    0x69a1a5af#32 0x0eedcf8e#32 0xf8e0eedc#32 ⟨0x3d1e3e6c#32, 0xe422531a#32, 0xeb41643e#32, 0x68b7b3e3#32⟩ = true := by decide +kernel
theorem test_step_g24 : stepGives .g24 (emptyBlock ⟨0x3d1e3e6c#32, 0xe422531a#32, 0xeb41643e#32, 0x68b7b3e3#32⟩)
    0xe362571e#32 0x42626370#32 0x4c4c6e08#32 ⟨0x68b7b3e3#32, 0x306ec122#32, 0xe422531a#32, 0xeb41643e#32⟩ = true := by decide +kernel
theorem test_step_g25 : stepGives .g25 (emptyBlock ⟨0x68b7b3e3#32, 0x306ec122#32, 0xe422531a#32, 0xeb41643e#32⟩)
    0x24625322#32 0x50510edb#32 0xa21db6a0#32 ⟨0xeb41643e#32, 0xd28c77c2#32, 0x306ec122#32, 0xe422531a#32⟩ = true := by decide +kernel
theorem test_step_g26 : stepGives .g26 (emptyBlock ⟨0xeb41643e#32, 0xd28c77c2#32, 0x306ec122#32, 0xe422531a#32⟩)
    0xd04cd322#32 0xb06344e7#32 0xd139ec18#32 ⟨0xe422531a#32, 0xa3c663da#32, 0xd28c77c2#32, 0x306ec122#32⟩ = true := by decide +kernel
theorem test_step_g27 : stepGives .g27 (emptyBlock ⟨0xe422531a#32, 0xa3c663da#32, 0xd28c77c2#32, 0x306ec122#32⟩)
    0xe2c677c2#32 0x0c42dfc9#32 0xfc90c42d#32 ⟨0x306ec122#32, 0xa0572807#32, 0xa3c663da#32, 0xd28c77c2#32⟩ = true := by decide +kernel
theorem test_step_g28 : stepGives .g28 (emptyBlock ⟨0x306ec122#32, 0xa0572807#32, 0xa3c663da#32, 0xd28c77c2#32⟩)
    0xa146201a#32 0x7b98ca41#32 0x7319482f#32 ⟨0xd28c77c2#32, 0x13707036#32, 0xa0572807#32, 0xa3c663da#32⟩ = true := by decide +kernel
theorem test_step_g29 : stepGives .g29 (emptyBlock ⟨0xd28c77c2#32, 0x13707036#32, 0xa0572807#32, 0xa3c663da#32⟩)
    0x03516817#32 0xd2cd83d1#32 0x9b07a3a5#32 ⟨0xa3c663da#32, 0xae7813db#32, 0x13707036#32, 0xa0572807#32⟩ = true := by decide +kernel
theorem test_step_g30 : stepGives .g30 (emptyBlock ⟨0xa3c663da#32, 0xae7813db#32, 0x13707036#32, 0xa0572807#32⟩)
    0xb3705033#32 0xbea5b6e6#32 0x6db9afa9#32 ⟨0xa0572807#32, 0x1c31c384#32, 0xae7813db#32, 0x13707036#32⟩ = true := by decide +kernel
theorem test_step_g31 : stepGives .g31 (emptyBlock ⟨0xa0572807#32, 0x1c31c384#32, 0xae7813db#32, 0x13707036#32⟩)
    0xbc3843cd#32 0xe9b9b85e#32 0x85ee9b9b#32 ⟨0x13707036#32, 0xa2205f1f#32, 0x1c31c384#32, 0xae7813db#32⟩ = true := by decide +kernel
theorem test_step_h32 : stepGives .h32 (emptyBlock ⟨0x13707036#32, 0xa2205f1f#32, 0x1c31c384#32, 0xae7813db#32⟩)
    0x10698f40#32 0x23d438b8#32 0x3d438b82#32 ⟨0xae7813db#32, 0xdf63eaa1#32, 0xa2205f1f#32, 0x1c31c384#32⟩ = true := by decide +kernel
theorem test_step_h33 : stepGives .h33 (emptyBlock ⟨0xae7813db#32, 0xdf63eaa1#32, 0xa2205f1f#32, 0x1c31c384#32⟩)
    0x6172763a#32 0x975c8096#32 0xe404b4ba#32 ⟨0x1c31c384#32, 0xc3689f5b#32, 0xdf63eaa1#32, 0xa2205f1f#32⟩ = true := by decide +kernel
theorem test_step_h34 : stepGives .h34 (emptyBlock ⟨0x1c31c384#32, 0xc3689f5b#32, 0xdf63eaa1#32, 0xa2205f1f#32⟩)
    0xbe2b2ae5#32 0x47fa4f8b#32 0x4f8b47fa#32 ⟨0xa2205f1f#32, 0x12f3e755#32, 0xc3689f5b#32, 0xdf63eaa1#32⟩ = true := by decide +kernel
theorem test_step_h35 : stepGives .h35 (emptyBlock ⟨0xa2205f1f#32, 0x12f3e755#32, 0xc3689f5b#32, 0xdf63eaa1#32⟩)
    0x0ef892af#32 0xaefe29da#32 0xed577f14#32 ⟨0xdf63eaa1#32, 0x004b6669#32, 0x12f3e755#32, 0xc3689f5b#32⟩ = true := by decide +kernel
theorem test_step_h36 : stepGives .h36 (emptyBlock ⟨0xdf63eaa1#32, 0x004b6669#32, 0x12f3e755#32, 0xc3689f5b#32⟩)
    0xd1d01e67#32 0x55f2f34c#32 0x5f2f34c5#32 ⟨0xc3689f5b#32, 0x5f7a9b2e#32, 0x004b6669#32, 0x12f3e755#32⟩ = true := by decide +kernel
theorem test_step_h37 : stepGives .h37 (emptyBlock ⟨0xc3689f5b#32, 0x5f7a9b2e#32, 0x004b6669#32, 0x12f3e755#32⟩)
    0x4dc21a12#32 0x5d098916#32 0x4c48b2e8#32 ⟨0x12f3e755#32, 0xabc34e16#32, 0x5f7a9b2e#32, 0x004b6669#32⟩ = true := by decide +kernel
theorem test_step_h38 : stepGives .h38 (emptyBlock ⟨0x12f3e755#32, 0xabc34e16#32, 0x5f7a9b2e#32, 0x004b6669#32⟩)
    0xf4f2b351#32 0xfea1e606#32 0xe606fea1#32 ⟨0x004b6669#32, 0x91ca4cb7#32, 0xabc34e16#32, 0x5f7a9b2e#32⟩ = true := by decide +kernel
theorem test_step_h39 : stepGives .h39 (emptyBlock ⟨0x004b6669#32, 0x91ca4cb7#32, 0xabc34e16#32, 0x5f7a9b2e#32⟩)
    0x6573998f#32 0x247ebc68#32 0x34123f5e#32 ⟨0x5f7a9b2e#32, 0xc5dc8c15#32, 0x91ca4cb7#32, 0xabc34e16#32⟩ = true := by decide +kernel
theorem test_step_h40 : stepGives .h40 (emptyBlock ⟨0x5f7a9b2e#32, 0xc5dc8c15#32, 0x91ca4cb7#32, 0xabc34e16#32⟩)
    0xffd58eb4#32 0x87eba8a8#32 0x7eba8a88#32 ⟨0xabc34e16#32, 0x4497169d#32, 0xc5dc8c15#32, 0x91ca4cb7#32⟩ = true := by decide +kernel
theorem test_step_h41 : stepGives .h41 (emptyBlock ⟨0xabc34e16#32, 0x4497169d#32, 0xc5dc8c15#32, 0x91ca4cb7#32⟩)
    0x1081d63f#32 0xa6e64ccf#32 0x32667d37#32 ⟨0x91ca4cb7#32, 0x76fd93d4#32, 0x4497169d#32, 0xc5dc8c15#32⟩ = true := by decide +kernel
theorem test_step_h42 : stepGives .h42 (emptyBlock ⟨0x91ca4cb7#32, 0x76fd93d4#32, 0x4497169d#32, 0xc5dc8c15#32⟩)
    0xf7b6095c#32 0x5e6f8698#32 0x86985e6f#32 ⟨0xc5dc8c15#32, 0xfd95f243#32, 0x76fd93d4#32, 0x4497169d#32⟩ = true := by decide +kernel
theorem test_step_h43 : stepGives .h43 (emptyBlock ⟨0xc5dc8c15#32, 0xfd95f243#32, 0x76fd93d4#32, 0x4497169d#32⟩)
    0xcfff770a#32 0x9a642024#32 0x124d3210#32 ⟨0x4497169d#32, 0x0fe32453#32, 0xfd95f243#32, 0x76fd93d4#32⟩ = true := by decide +kernel
theorem test_step_h44 : stepGives .h44 (emptyBlock ⟨0x4497169d#32, 0x0fe32453#32, 0xfd95f243#32, 0x76fd93d4#32⟩)
    0x848b45c4#32 0xa2f72c9a#32 0x2f72c9aa#32 ⟨0x76fd93d4#32, 0x3f55edfd#32, 0x0fe32453#32, 0xfd95f243#32⟩ = true := by decide +kernel
theorem test_step_h45 : stepGives .h45 (emptyBlock ⟨0x76fd93d4#32, 0x3f55edfd#32, 0x0fe32453#32, 0xfd95f243#32⟩)
    0xcd233bed#32 0x2afc69a6#32 0xe34d3157#32 ⟨0xfd95f243#32, 0x22a31f54#32, 0x3f55edfd#32, 0x0fe32453#32⟩ = true := by decide +kernel
theorem test_step_h46 : stepGives .h46 (emptyBlock ⟨0xfd95f243#32, 0x22a31f54#32, 0x3f55edfd#32, 0x0fe32453#32⟩)
    0x1215d6fa#32 0x2f4e4635#32 0x46352f4e#32 ⟨0x0fe32453#32, 0x68d84ea2#32, 0x22a31f54#32, 0x3f55edfd#32⟩ = true := by decide +kernel
theorem test_step_h47 : stepGives .h47 (emptyBlock ⟨0x0fe32453#32, 0x68d84ea2#32, 0x22a31f54#32, 0x3f55edfd#32⟩)
    0x752ebc0b#32 0x49be36c3#32 0x61a4df1b#32 ⟨0x3f55edfd#32, 0xca7d2dbd#32, 0x68d84ea2#32, 0x22a31f54#32⟩ = true := by decide +kernel
theorem test_step_i48 : stepGives .i48 (emptyBlock ⟨0x3f55edfd#32, 0xca7d2dbd#32, 0x68d84ea2#32, 0x22a31f54#32⟩)
    0xb7a5a31d#32 0xeb24b3de#32 0xc92cf7ba#32 ⟨0x22a31f54#32, 0x93aa2577#32, 0xca7d2dbd#32, 0x68d84ea2#32⟩ = true := by decide +kernel
theorem test_step_i49 : stepGives .i49 (emptyBlock ⟨0x22a31f54#32, 0x93aa2577#32, 0xca7d2dbd#32, 0x68d84ea2#32⟩)
    0x5dd298c2#32 0xc3a0b7ad#32 0x82deb70e#32 ⟨0x68d84ea2#32, 0x1688dc85#32, 0x93aa2577#32, 0xca7d2dbd#32⟩ = true := by decide +kernel
theorem test_step_i50 : stepGives .i50 (emptyBlock ⟨0x68d84ea2#32, 0x1688dc85#32, 0x93aa2577#32, 0xca7d2dbd#32⟩)
    0xa420fbb0#32 0xb88d6df9#32 0xb6fcdc46#32 ⟨0xca7d2dbd#32, 0xcd85b8cb#32, 0x1688dc85#32, 0x93aa2577#32⟩ = true := by decide +kernel
theorem test_step_i51 : stepGives .i51 (emptyBlock ⟨0xca7d2dbd#32, 0xcd85b8cb#32, 0x1688dc85#32, 0x93aa2577#32⟩)
    0xfb5d264e#32 0xc26df444#32 0x88984dbe#32 ⟨0x93aa2577#32, 0x561e0689#32, 0xcd85b8cb#32, 0x1688dc85#32⟩ = true := by decide +kernel
theorem test_step_i52 : stepGives .i52 (emptyBlock ⟨0x93aa2577#32, 0x561e0689#32, 0xcd85b8cb#32, 0x1688dc85#32⟩)
    0x32fa9f30#32 0x2c001e6a#32 0x00079a8b#32 ⟨0x1688dc85#32, 0x5625a114#32, 0x561e0689#32, 0xcd85b8cb#32⟩ = true := by decide +kernel
theorem test_step_i53 : stepGives .i53 (emptyBlock ⟨0x1688dc85#32, 0x5625a114#32, 0x561e0689#32, 0xcd85b8cb#32⟩)
    0x2061e1bd#32 0xc5f78ad4#32 0xde2b5317#32 ⟨0xcd85b8cb#32, 0x3450f42b#32, 0x5625a114#32, 0x561e0689#32⟩ = true := by decide +kernel
theorem test_step_i54 : stepGives .i54 (emptyBlock ⟨0xcd85b8cb#32, 0x3450f42b#32, 0x5625a114#32, 0x561e0689#32⟩)
    0xebd45c6b#32 0xb94a09b3#32 0x04d9dca5#32 ⟨0x561e0689#32, 0x392ad0d0#32, 0x3450f42b#32, 0x5625a114#32⟩ = true := by decide +kernel
theorem test_step_i55 : stepGives .i55 (emptyBlock ⟨0x561e0689#32, 0x392ad0d0#32, 0x3450f42b#32, 0x5625a114#32⟩)
    0x8daa2ad0#32 0x694c8f2a#32 0xe54d2991#32 ⟨0x5625a114#32, 0x1e77fa61#32, 0x392ad0d0#32, 0x3450f42b#32⟩ = true := by decide +kernel
theorem test_step_i56 : stepGives .i56 (emptyBlock ⟨0x5625a114#32, 0x1e77fa61#32, 0x392ad0d0#32, 0x3450f42b#32⟩)
    0xe6d52b25#32 0xaca34a88#32 0x28d2a22b#32 ⟨0x3450f42b#32, 0x474a9c8c#32, 0x1e77fa61#32, 0x392ad0d0#32⟩ = true := by decide +kernel
theorem test_step_i57 : stepGives .i57 (emptyBlock ⟨0x3450f42b#32, 0x474a9c8c#32, 0x1e77fa61#32, 0x392ad0d0#32⟩)
    0xd9a845ce#32 0x0c2620d9#32 0x98836430#32 ⟨0x392ad0d0#32, 0xdfce00bc#32, 0x474a9c8c#32, 0x1e77fa61#32⟩ = true := by decide +kernel
theorem test_step_i58 : stepGives .i58 (emptyBlock ⟨0x392ad0d0#32, 0xdfce00bc#32, 0x474a9c8c#32, 0x1e77fa61#32⟩)
    0xb8849932#32 0x94b0ad16#32 0x568b4a58#32 ⟨0x1e77fa61#32, 0x36594b14#32, 0xdfce00bc#32, 0x474a9c8c#32⟩ = true := by decide +kernel
theorem test_step_i59 : stepGives .i59 (emptyBlock ⟨0x1e77fa61#32, 0x36594b14#32, 0xdfce00bc#32, 0x474a9c8c#32⟩)
    0x61336bcb#32 0xcdb377cd#32 0xf9b9b66e#32 ⟨0x474a9c8c#32, 0x30130182#32, 0x36594b14#32, 0xdfce00bc#32⟩ = true := by decide +kernel
theorem test_step_i60 : stepGives .i60 (emptyBlock ⟨0x474a9c8c#32, 0x30130182#32, 0x36594b14#32, 0xdfce00bc#32⟩)
    0x066ab4d7#32 0x4508cfe5#32 0x4233f951#32 ⟨0xdfce00bc#32, 0x7246fad3#32, 0x30130182#32, 0x36594b14#32⟩ = true := by decide +kernel
theorem test_step_i61 : stepGives .i61 (emptyBlock ⟨0xdfce00bc#32, 0x7246fad3#32, 0x30130182#32, 0x36594b14#32⟩)
    0xcbf5ff79#32 0x68fef26a#32 0xfbc9a9a3#32 ⟨0x36594b14#32, 0x6e10a476#32, 0x7246fad3#32, 0x30130182#32⟩ = true := by decide +kernel
theorem test_step_i62 : stepGives .i62 (emptyBlock ⟨0x36594b14#32, 0x6e10a476#32, 0x7246fad3#32, 0x30130182#32⟩)
    0x9dba04ac#32 0xfeeb227b#32 0x913dff75#32 ⟨0x30130182#32, 0xff4ea3eb#32, 0x6e10a476#32, 0x7246fad3#32⟩ = true := by decide +kernel
theorem test_step_i63 : stepGives .i63 (emptyBlock ⟨0x30130182#32, 0xff4ea3eb#32, 0x6e10a476#32, 0x7246fad3#32⟩)
    0x91ef0399#32 0xad88d8ac#32 0x1595b11b#32 ⟨0x7246fad3#32, 0x14e45506#32, 0xff4ea3eb#32, 0x6e10a476#32⟩ = true := by decide +kernel

-- Further lines, on the block of "hello" (95_test_vectors.md section 2.1).

theorem test_hello_f00 : stepGives .f00 (helloBlock ⟨0x67452301#32, 0xefcdab89#32, 0x98badcfe#32, 0x10325476#32⟩)
    0x98badcfe#32 0x43d709df#32 0xeb84efa1#32 ⟨0x10325476#32, 0xdb529b2a#32, 0xefcdab89#32, 0x98badcfe#32⟩ = true := by decide +kernel
theorem test_hello_f01 : stepGives .f01 (helloBlock ⟨0x10325476#32, 0xdb529b2a#32, 0xefcdab89#32, 0x98badcfe#32⟩)
    0xcbe8cfdc#32 0xc4e35c17#32 0x35c17c4e#32 ⟨0x98badcfe#32, 0x11141778#32, 0xdb529b2a#32, 0xefcdab89#32⟩ = true := by decide +kernel
theorem test_hello_f15 : stepGives .f15 (helloBlock ⟨0x4d649e67#32, 0xd8f68bbf#32, 0xff9580ae#32, 0x450959ef#32⟩)
    0xdd9dd0ee#32 0x74b67776#32 0xdd9d2d9d#32 ⟨0x450959ef#32, 0xb693b95c#32, 0xd8f68bbf#32, 0xff9580ae#32⟩ = true := by decide +kernel
theorem test_hello_g16 : stepGives .g16 (helloBlock ⟨0x450959ef#32, 0xb693b95c#32, 0xd8f68bbf#32, 0xff9580ae#32⟩)
    0xb6f38b1d#32 0xf21b8add#32 0x43715bbe#32 ⟨0xff9580ae#32, 0xfa05151a#32, 0xb693b95c#32, 0xd8f68bbf#32⟩ = true := by decide +kernel
theorem test_hello_g31 : stepGives .g31 (helloBlock ⟨0xd6de0b9c#32, 0x9978d034#32, 0x5ad7c223#32, 0xf4468fac#32⟩)
    0x9ad1c027#32 0xfeda184d#32 0x84dfeda1#32 ⟨0xf4468fac#32, 0x1e58bdd5#32, 0x9978d034#32, 0x5ad7c223#32⟩ = true := by decide +kernel
theorem test_hello_h32 : stepGives .h32 (helloBlock ⟨0xf4468fac#32, 0x1e58bdd5#32, 0x9978d034#32, 0x5ad7c223#32⟩)
    0xddf7afc2#32 0xd23878b0#32 0x23878b0d#32 ⟨0x5ad7c223#32, 0x41e048e2#32, 0x1e58bdd5#32, 0x9978d034#32⟩ = true := by decide +kernel
theorem test_hello_h47 : stepGives .h47 (helloBlock ⟨0xdd36cea8#32, 0x45677c62#32, 0xb9fc4957#32, 0x1cf97337#32⟩)
    0xe0624602#32 0x82456b0f#32 0x87c122b5#32 ⟨0x1cf97337#32, 0xcd289f17#32, 0x45677c62#32, 0xb9fc4957#32⟩ = true := by decide +kernel
theorem test_hello_i48 : stepGives .i48 (helloBlock ⟨0x1cf97337#32, 0xcd289f17#32, 0x45677c62#32, 0xb9fc4957#32⟩)
    0x8a4cc3dd#32 0x07dbbec0#32 0xf6efb001#32 ⟨0xb9fc4957#32, 0xc4184f18#32, 0xcd289f17#32, 0x45677c62#32⟩ = true := by decide +kernel
theorem test_hello_i63 : stepGives .i63 (helloBlock ⟨0x6560b9b9#32, 0xf8e294bb#32, 0x8292c29a#32, 0xc2fb1e5c#32⟩)
    0x7f743721#32 0xd05bc46b#32 0x8d7a0b78#32 ⟨0xc2fb1e5c#32, 0x865ca033#32, 0xf8e294bb#32, 0x8292c29a#32⟩ = true := by decide +kernel

-- The compression function (43_compress.md R171; 95_test_vectors.md section 2.2).

theorem test_cf_zero : compressionFn ⟨0, 0, 0, 0⟩ (fun _ => 0) =
    ⟨0xf7cd1c97#32, 0xa5483681#32, 0x2b68d832#32, 0xf90ca639#32⟩ := by decide +kernel
theorem test_cf_ones : compressionFn ⟨0xffffffff#32, 0xffffffff#32, 0xffffffff#32, 0xffffffff#32⟩ (fun _ => 0xffffffff#32) =
    ⟨0x6cba9129#32, 0x29ffd12a#32, 0x8b9bb7d3#32, 0xa9a0a3c1#32⟩ := by decide +kernel
/-- Sixteen distinct words: every entry of the index table in every round. -/
theorem test_cf_distinct : compressionFn initialChain (fun k => k.setWidth 32) =
    ⟨0x725e2f24#32, 0x52694655#32, 0x9fd0a13c#32, 0xafad83d6#32⟩ := by decide +kernel
/-- The same block in the buffer, for the machine's own `COMPRESS`. -/
theorem test_compress_distinct :
    chainOf (compress { State.reset with buf := (List.range' 1 15).map (fun k => (4 * k, BitVec.ofNat 8 k)) }) =
      ⟨0x725e2f24#32, 0x52694655#32, 0x9fd0a13c#32, 0xafad83d6#32⟩ := by decide +kernel
theorem test_cf_letters : compressionFn initialChain (fun _ => 0x61616161#32) =
    ⟨0x89d4ff56#32, 0x125cd962#32, 0x69cade33#32, 0x0033e325#32⟩ := by decide +kernel
/-- The working tuples of `HASH "hello"` after steps 15, 31, 47 and 63 (43_compress.md R171). -/
theorem test_checkpoints :
    [16, 32, 48, 64].map (cfSteps (readWord (helloBlock initialChain)) initialChain) =
      [⟨0x450959ef#32, 0xb693b95c#32, 0xd8f68bbf#32, 0xff9580ae#32⟩,
       ⟨0xf4468fac#32, 0x1e58bdd5#32, 0x9978d034#32, 0x5ad7c223#32⟩,
       ⟨0x1cf97337#32, 0xcd289f17#32, 0x45677c62#32, 0xb9fc4957#32⟩,
       ⟨0xc2fb1e5c#32, 0x865ca033#32, 0xf8e294bb#32, 0x8292c29a#32⟩] := by decide +kernel

-- The packer (40_encoder.md R105): both sides of every boundary.

theorem test_utf8_one_two : [0x00#21, 0x7F#21, 0x80#21, 0x7FF#21].map utf8Bytes =
    [some [0x00#8], some [0x7f#8], some [0xc2#8, 0x80#8], some [0xdf#8, 0xbf#8]] := by decide
theorem test_utf8_three : [0x800#21, 0x20AC#21, 0xD7FF#21, 0xE000#21, 0xFFFF#21].map utf8Bytes =
    [some [0xe0#8, 0xa0#8, 0x80#8], some [0xe2#8, 0x82#8, 0xac#8], some [0xed#8, 0x9f#8, 0xbf#8],
     some [0xee#8, 0x80#8, 0x80#8], some [0xef#8, 0xbf#8, 0xbf#8]] := by decide
theorem test_utf8_four : [0x10000#21, 0x1F600#21, 0x10FFFF#21].map utf8Bytes =
    [some [0xf0#8, 0x90#8, 0x80#8, 0x80#8], some [0xf0#8, 0x9f#8, 0x98#8, 0x80#8],
     some [0xf4#8, 0x8f#8, 0xbf#8, 0xbf#8]] := by decide
theorem test_utf8_none : [0xD800#21, 0xDBFF#21, 0xDC00#21, 0xDFFF#21, 0x110000#21, 0x1FFFFF#21].map utf8Bytes =
    [none, none, none, none, none, none] := by decide

-- The serializer (44_serializer.md R254).

theorem test_serialize_order : (digestOf ⟨0x01234567#32, 0x89abcdef#32, 0x0a0b0c0d#32, 0xf0e0d0c0#32⟩).toList =
    ascii "67452301efcdab890d0c0b0ac0d0e0f0" := by decide +kernel
theorem test_serialize_initial : (digestOf initialChain).toList = ascii "0123456789abcdeffedcba9876543210" := by
  decide +kernel

-- Commands and faults (45_commands.md R277; 95_test_vectors.md P5, P6, P8).

theorem test_final_empty : nextIs (exec .final State.reset) (fun t => decide (t.phase = .done ∧
    t.hex.toList = ascii "d41d8cd98f00b204e9800998ecf8427e" ∧ t.buf = [(0, 0x80#8)] ∧ t.fill = 0 ∧
    statusByte t = 0x01#8)) = true := by decide +kernel
/-- The last `FINAL` of the texts of 55 and 56 letters, on both sides of the padding boundary
(41_padder.md R129; 95_test_vectors.md P3). -/
theorem test_final_letters_55 : nextIs (exec .final (letters 55)) (fun t => decide (
    t.hex.toList = ascii "ef1772b6dff9a122358552954ad0df65" ∧ readWord t 13 = 0x80616161#32 ∧
    readWord t 14 = 0x000001b8#32)) = true := by decide +kernel
theorem test_final_letters_56 : nextIs (exec .final (letters 56)) (fun t => decide (
    t.hex.toList = ascii "3b0c8ac703f828b04c6c197006d17218" ∧ t.buf = [(56, 0xc0#8), (57, 0x01#8)] ∧
    t.nbytes = 56)) = true := by decide +kernel
/-- The length field of a text of 2^29 + 5 bytes (41_padder.md R130). -/
theorem test_length_field :
    lengthBytes (lengthField { State.reset with nbytes := BitVec.ofNat 61 (2 ^ 29 + 5) }) =
      [0x28#8, 0x00#8, 0x00#8, 0x00#8, 0x01#8, 0x00#8, 0x00#8, 0x00#8] := by decide +kernel
theorem test_putc_h : nextIs (exec (.putc 0x68#21) State.reset) (fun t => decide (t.phase = .absorb ∧
    readWord t 0 = 0x00000068#32 ∧ t.fill = 1 ∧ t.nbytes = 1)) = true := by decide +kernel
/-- A code point that straddles the block boundary (45_commands.md R277, last row). -/
theorem test_putc_straddles : nextIs (exec (.putc 0x20AC#21) (letters 62)) (fun t => decide (
    readWord t 0 = 0x616161ac#32 ∧ readWord t 15 = 0x82e26161#32 ∧ t.fill = 1 ∧ t.nbytes = 65 ∧
    chainOf t = ⟨0x8a9edb6a#32, 0x43720bf4#32, 0x5b60c855#32, 0x9f119a6b#32⟩)) = true := by decide +kernel
theorem test_putc_surrogate : nextIs (step (withEvent (.command 0x0200D800#32) State.reset))
    (fun t => decide (t = { State.reset with phase := .fault, cause := .badcp } ∧ statusByte t = 0x0e#8)) = true := by
  decide +kernel
theorem test_undecodable : nextIs (step (withEvent (.command 0x00000000#32) State.reset))
    (fun t => decide (t = { State.reset with phase := .fault, cause := .illcmd } ∧ statusByte t = 0x06#8)) = true := by
  decide +kernel
theorem test_putc_after_digest : nextIs (step (withEvent (.command 0x02000068#32) doneState))
    (fun t => decide (t.phase = .fault ∧ statusByte t = 0x0a#8 ∧ t.hex = noDigest)) = true := by decide +kernel
/-- In `DONE` an undecodable word is `ILLCMD`, and a surrogate is `SEQ` (95_test_vectors.md P8). -/
theorem test_priority :
    nextIs (step (withEvent (.command 0x05000000#32) doneState)) (fun t => decide (statusByte t = 0x06#8)) = true ∧
    nextIs (step (withEvent (.command 0x0200d800#32) doneState)) (fun t => decide (statusByte t = 0x0a#8)) = true := by
  decide +kernel
theorem test_init_after_digest : nextIs (step (withEvent (.command 0x01000000#32) doneState))
    (fun t => decide (t = State.reset)) = true := by decide +kernel
theorem test_init_in_fault : nextIs (step (withEvent (.command 0x01000000#32) faultState))
    (fun t => decide (t = faultState)) = true := by decide +kernel
theorem test_reset_in_fault : nextIs (step (withEvent .reset faultState))
    (fun t => decide (t = State.reset)) = true := by decide +kernel
/-- Nothing survives `RESET`, the hidden registers and signals neither (60_exceptions.md R303;
70_reset_and_hazards.md R322). -/
theorem test_reset_clears_hidden : nextIs (step (withEvent .reset dirtyState))
    (fun t => decide (t = State.reset)) = true := by decide +kernel
/-- Nor an `INIT`, but for `CAUSE` (45_commands.md R267). -/
theorem test_init_clears_hidden : nextIs (step (withEvent (.command 0x01000000#32) dirtyState))
    (fun t => decide (t = State.reset)) = true := by decide +kernel

-- Steps placed by the bits of a table row, the first instruction after reset.

theorem test_withFetchWord_final : nextIs (step (State.reset.withFetchWord 32 0x03000000))
    (fun t => decide (t.phase = .done)) = true := by decide +kernel
/-- `F00` on a block and working registers of zeros: the sum is `T[0]` (43_compress.md R172). -/
theorem test_withFetchWord_f00 : nextIs (step (State.reset.withFetchWord 8 0x00))
    (fun t => decide (t.sum = 0xd76aa478#32 ∧ t.I = 1)) = true := by decide +kernel
/-- After the last step the index stays (log entry 8). -/
theorem test_withFetchWord_i63 : nextIs (step (State.reset.withFetchWord 8 0x3F))
    (fun t => decide (t.I = 63)) = true := by decide +kernel

-- WITNESSES. For each statement with hypotheses: a state and operands that meet all of them together, clause by
-- clause, at the boundary values of a clause's range.

/-- The invariants of the states the witnesses use. -/
theorem inv_openState : openState.Inv := by constructor <;> decide +kernel
theorem inv_doneState : doneState.Inv := by constructor <;> decide +kernel
theorem inv_faultState : faultState.Inv := by constructor <;> decide +kernel

/-- The open message of `openState` is the text "hi". -/
theorem absorbed_openState : openState.Absorbed [0x68#8, 0x69#8] := by
  constructor <;> decide +kernel

theorem witness_DecodedWordIsItsEncoding :
    decode (.cmd32 0x020020AC#32) = .instr (.putc 0x20AC#21) ∧ decode (.step6 63#6) = .instr .i63 ∧
    decode (.fsel2 3#2) = .instr .fnI ∧ decode (.rot5 0#5) = .instr (.rotl 0) := by decide

/-- Every class of 30_encoding.md R75 has words, at both ends of its ranges. -/
theorem witness_EveryWordHasItsClass :
    decode (.cmd32 0x00ffffff#32) = .reject .reservedOpcode ∧ decode (.cmd32 0x04000000#32) = .reject .reservedOpcode ∧
    decode (.cmd32 0x01200000#32) = .reject .reservedField ∧ decode (.cmd32 0x03e00000#32) = .reject .reservedField ∧
    decode (.cmd32 0x01000001#32) = .reject .operandNotZero ∧ decode (.cmd32 0x031fffff#32) = .reject .operandNotZero ∧
    decode (.cmd32 0x02000000#32) = .instr (.putc 0) ∧ decode (.cmd32 0x021fffff#32) = .instr (.putc 0x1fffff#21) := by
  decide

theorem witness_StepExecutesTheCommandWord_fault :
    (withEvent (.command 0x01000000#32) faultState).pending = [.command 0x01000000#32] ∧
    (withEvent (.command 0x01000000#32) faultState).phase = .fault := by decide +kernel
/-- Also of the last clause of `EveryWordHasItsClass`. -/
theorem witness_StepExecutesTheCommandWord_reject :
    (withEvent (.command 0#32) doneState).pending = [.command 0#32] ∧
    (withEvent (.command 0#32) doneState).phase ≠ .fault ∧ decode (.cmd32 0#32) = .reject .reservedOpcode := by
  decide +kernel
theorem witness_StepExecutesTheCommandWord_instr :
    (withEvent (.command 0x02000068#32) openState).pending = [.command 0x02000068#32] ∧
    (withEvent (.command 0x02000068#32) openState).phase ≠ .fault ∧
    decode (.cmd32 0x02000068#32) = .instr (.putc 0x68#21) := by decide +kernel
theorem witness_StepExecutesTheCommandWord_seq :
    (withEvent (.command 0x03000000#32) doneState).pending = [.command 0x03000000#32] ∧
    (withEvent (.command 0x03000000#32) doneState).phase = .done ∧
    decode (.cmd32 0x03000000#32) = .instr .final := by decide +kernel

theorem witness_StepExecutesTheCommandWord_badcp :
    (withEvent (.command 0x0200D800#32) openState).pending = [.command 0x0200D800#32] ∧
    (withEvent (.command 0x0200D800#32) openState).phase = .absorb ∧
    decode (.cmd32 0x0200D800#32) = .instr (.putc 0xD800#21) ∧ ¬ IsScalar 0xD800#21 := by
  unfold IsScalar
  decide +kernel

/-- The words of a command with a reserved bit or an operand it does not take, for the statements of `INIT`,
`PUTC` and `FINAL`. -/
theorem witness_commands_undecodable :
    (opc 0x01200000#32 = 1 ∧ rsv 0x01200000#32 ≠ 0) ∧ (opc 0x011FFFFF#32 = 1 ∧ cpField 0x011FFFFF#32 ≠ 0) ∧
    (opc 0x02E00041#32 = 2 ∧ rsv 0x02E00041#32 ≠ 0) ∧ (opc 0x03200000#32 = 3 ∧ rsv 0x03200000#32 ≠ 0) ∧
    (opc 0x03000001#32 = 3 ∧ cpField 0x03000001#32 ≠ 0) := by decide

theorem witness_ResetStateIsTheSpecs : faultState.Inv ∧ faultState.cause ≠ .none :=
  ⟨inv_faultState, by decide +kernel⟩

theorem witness_MaskAndMatchSelectTheCommand : decode (.cmd32 0x021FFFFF#32) = .instr (.putc 0x1FFFFF#21) := by decide

theorem witness_StepRunsTheMicroOperation_step :
    (withEvent .step { State.reset with I := 62 }).pending = [.step] ∧
    (∃ t, exec (decodeStep 62#6) { State.reset with I := 62 } = .next t) ∧
    (withEvent .step { State.reset with I := 63 }).pending = [.step] ∧
    (∃ t, exec (decodeStep 63#6) { State.reset with I := 63 } = .next t) :=
  ⟨rfl, ⟨_, rfl⟩, rfl, ⟨_, rfl⟩⟩
theorem witness_StepRunsTheMicroOperation_others :
    State.reset.pending = [] ∧ (withEvent (.select 3) openState).pending = [.select 3] ∧
    (withEvent (.rotate 31) openState).pending = [.rotate 31] ∧ (withEvent .load openState).pending = [.load] := by
  decide +kernel

theorem witness_PlacedInstructionRunsNext :
    decodeTableWord 32 0x021fffff = some (.putc 0x1fffff#21) ∧ State.reset.phase ≠ .fault ∧
    decodeTableWord 6 0 = some .f00 ∧ decodeTableWord 6 63 = some .i63 ∧ decodeTableWord 2 0 = some .fnF ∧
    decodeTableWord 2 3 = some .fnI ∧ decodeTableWord 5 0 = some (.rotl 0) ∧ decodeTableWord 5 31 = some (.rotl 31) := by
  decide +kernel

theorem witness_ResetActsInEveryPhase :
    (withEvent .reset openState).phase = .absorb ∧ (withEvent .reset doneState).phase = .done ∧
    (withEvent .reset faultState).phase = .fault ∧
    ∃ t, step (withEvent .reset faultState) = .next t ∧ t.phase ≠ .fault := by
  refine ⟨by decide +kernel, by decide +kernel, by decide +kernel, ?_⟩
  obtain ⟨t, h, ht⟩ := exists_of_nextIs (p := fun t => decide (t.phase ≠ .fault))
    (by decide +kernel : nextIs (step (withEvent .reset faultState)) _ = true)
  exact ⟨t, h, of_decide_eq_true ht⟩

theorem witness_EveryStepKeepsTheInvariants :
    (withEvent (.command 0x020020AC#32) openState).Inv ∧
    ∃ t, step (withEvent (.command 0x020020AC#32) openState) = .next t ∧ t.fill = 5 := by
  refine ⟨by constructor <;> decide +kernel, ?_⟩
  obtain ⟨t, h, ht⟩ := exists_of_nextIs (p := fun t => decide (t.fill = 5))
    (by decide +kernel : nextIs (step (withEvent (.command 0x020020AC#32) openState)) _ = true)
  exact ⟨t, h, of_decide_eq_true ht⟩

theorem witness_PutcExtendsTheAbsorbedMessage :
    Memory.wf openState.buf = true ∧ openState.Absorbed [0x68#8, 0x69#8] ∧
    utf8Bytes 0x1F600#21 = some [0xf0#8, 0x9f#8, 0x98#8, 0x80#8] :=
  ⟨by decide +kernel, absorbed_openState, by decide⟩

/-- A text with code points of one and of four bytes, and the empty one, issued in `DONE`. -/
theorem witness_HashDeliversTheDigestOfAnyText :
    ({ doneState with pending := (hashCommands [0x68#21, 0x1F600#21]).filterMap commandEvent } : State).phase ≠ .fault ∧
    textBytes [0x68#21, 0x1F600#21] = some [0x68#8, 0xf0#8, 0x9f#8, 0x98#8, 0x80#8] ∧ textBytes [] = some [] := by
  decide +kernel

theorem witness_ScalarTextsHaveBytes :
    (∀ cp ∈ [0x0#21, 0xD7FF#21, 0xE000#21, 0x10FFFF#21], IsScalar cp) ∧ ¬ IsScalar 0xD800#21 ∧ ¬ IsScalar 0xDFFF#21 ∧
    ¬ IsScalar 0x110000#21 ∧ ¬ IsScalar 0x1FFFFF#21 := by
  refine ⟨?_, ?_, ?_, ?_, ?_⟩ <;> simp [IsScalar]

/-- The clause on the bytes of a text. -/
theorem witness_ScalarTextsHaveBytes_parts :
    textBytes [0x68#21, 0x20AC#21] = some [0x68#8, 0xe2#8, 0x82#8, 0xac#8] ∧ textBytes [] = some [] := by
  decide +kernel

/-- Two different states that agree on the architecture and on what is to come. -/
theorem witness_HiddenStateNeverReachesArchitecture :
    SameArch openState { openState with a := 1, I := 5, encn := 4 } ∧ openState ≠ { openState with a := 1, I := 5, encn := 4 } ∧
    openState.pending = ({ openState with a := 1, I := 5, encn := 4 } : State).pending :=
  ⟨⟨rfl, rfl, rfl, rfl, rfl, rfl, rfl, rfl, rfl, rfl⟩, by decide +kernel, rfl⟩

theorem witness_ChainingStateChangesOnlyWithABlock :
    ∃ t, step (withEvent (.command 0x020000E9#32) (letters 62)) = .next t ∧ chainOf t ≠ chainOf (letters 62) := by
  obtain ⟨t, h, ht⟩ := exists_of_nextIs (p := fun t => decide (chainOf t ≠ chainOf (letters 62)))
    (by decide +kernel : nextIs (step (withEvent (.command 0x020000E9#32) (letters 62))) _ = true)
  exact ⟨t, h, of_decide_eq_true ht⟩

theorem witness_OnlyFinalMakesHexNonZero :
    (withEvent (.command 0x03000000#32) openState).hex = noDigest ∧
    ∃ t, step (withEvent (.command 0x03000000#32) openState) = .next t ∧ t.hex ≠ noDigest := by
  refine ⟨by decide +kernel, ?_⟩
  obtain ⟨t, h, ht⟩ := exists_of_nextIs (p := fun t => decide (t.hex ≠ noDigest))
    (by decide +kernel : nextIs (step (withEvent (.command 0x03000000#32) openState)) _ = true)
  exact ⟨t, h, of_decide_eq_true ht⟩

/-- Steps from a state that meets the invariants into `DONE`, `ABSORB` and `FAULT`. -/
theorem witness_HexIsADigestExactlyInDone_done :
    (withEvent (.command 0x03000000#32) openState).Inv ∧
    ∃ t, step (withEvent (.command 0x03000000#32) openState) = .next t ∧ t.phase = .done := by
  refine ⟨by constructor <;> decide +kernel, ?_⟩
  obtain ⟨t, h, ht⟩ := exists_of_nextIs (p := fun t => decide (t.phase = .done))
    (by decide +kernel : nextIs (step (withEvent (.command 0x03000000#32) openState)) _ = true)
  exact ⟨t, h, of_decide_eq_true ht⟩
theorem witness_HexIsADigestExactlyInDone_absorb :
    (withEvent (.command 0x01000000#32) doneState).Inv ∧
    ∃ t, step (withEvent (.command 0x01000000#32) doneState) = .next t ∧ t.phase = .absorb := by
  refine ⟨by constructor <;> decide +kernel, ?_⟩
  obtain ⟨t, h, ht⟩ := exists_of_nextIs (p := fun t => decide (t.phase = .absorb))
    (by decide +kernel : nextIs (step (withEvent (.command 0x01000000#32) doneState)) _ = true)
  exact ⟨t, h, of_decide_eq_true ht⟩
theorem witness_HexIsADigestExactlyInDone_fault :
    (withEvent (.command 0x00000000#32) doneState).Inv ∧
    ∃ t, step (withEvent (.command 0x00000000#32) doneState) = .next t ∧ t.phase = .fault := by
  refine ⟨by constructor <;> decide +kernel, ?_⟩
  obtain ⟨t, h, ht⟩ := exists_of_nextIs (p := fun t => decide (t.phase = .fault))
    (by decide +kernel : nextIs (step (withEvent (.command 0x00000000#32) doneState)) _ = true)
  exact ⟨t, h, of_decide_eq_true ht⟩

theorem witness_InitOpensAMessage :
    openState.phase ≠ .fault ∧ doneState.phase ≠ .fault ∧ faultState.phase = .fault ∧ doneState.Inv ∧
    doneState.phase = .done :=
  ⟨by decide +kernel, by decide +kernel, by decide +kernel, inv_doneState, by decide +kernel⟩

/-- `FILL` 59 and 60 with four bytes: the block is not filled, and exactly filled; 63: it is filled by the first
byte. Then each other clause, at the ends of the ranges of the operand. -/
theorem witness_PutcAppendsItsBytes_scalar :
    Memory.wf (letters 59).buf = true ∧ (letters 59).phase = .absorb ∧ (letters 59).fill.toNat + 4 < 64 ∧
    Memory.wf (letters 60).buf = true ∧ (letters 60).phase = .absorb ∧ (letters 60).fill.toNat + 4 = 64 ∧
    Memory.wf (letters 63).buf = true ∧ (letters 63).phase = .absorb ∧ (letters 63).fill.toNat + 4 = 67 ∧
    IsScalar 0x10FFFF#21 ∧ IsScalar 0xD7FF#21 ∧ IsScalar 0xE000#21 := by
  refine ⟨?_, ?_, ?_, ?_, ?_, ?_, ?_, ?_, ?_, ?_, ?_, ?_⟩
  case refine_10 => simp [IsScalar]
  case refine_11 => simp [IsScalar]
  case refine_12 => simp [IsScalar]
  all_goals decide +kernel
theorem witness_PutcAppendsItsBytes_others :
    openState.phase = .absorb ∧ doneState.phase = .done ∧ faultState.phase = .fault ∧ ¬ IsScalar 0xD800#21 ∧
    ¬ IsScalar 0xDFFF#21 ∧ ¬ IsScalar 0x110000#21 ∧ ¬ IsScalar 0x1FFFFF#21 := by
  refine ⟨by decide +kernel, by decide +kernel, by decide +kernel, ?_, ?_, ?_, ?_⟩ <;> simp [IsScalar]

/-- `FILL` 0 and 55 for one padding block, 56 and 63 for two. -/
theorem witness_FinalClosesTheMessage :
    Memory.wf State.reset.buf = true ∧ State.reset.phase = .absorb ∧ State.reset.fill.toNat ≤ 55 ∧
    Memory.wf (letters 55).buf = true ∧ (letters 55).phase = .absorb ∧ (letters 55).fill.toNat = 55 ∧
    Memory.wf (letters 56).buf = true ∧ (letters 56).phase = .absorb ∧ (letters 56).fill.toNat = 56 ∧
    Memory.wf (letters 63).buf = true ∧ (letters 63).phase = .absorb ∧ (letters 63).fill.toNat = 63 ∧
    doneState.phase = .done ∧ faultState.phase = .fault := by decide +kernel

theorem witness_InitForgetsTheOpenMessage :
    openState.Inv ∧ doneState.Inv ∧ openState.phase ≠ .fault ∧ doneState.phase ≠ .fault :=
  ⟨inv_openState, inv_doneState, by decide +kernel, by decide +kernel⟩

/-- Also of the second clause of `FaultsLeaveEveryOtherField`. -/
theorem witness_RaiseWritesPhaseCauseAndHex :
    (withEvent (.command 0x0200D800#32) openState).phase ≠ .fault ∧
    ∃ t, step (withEvent (.command 0x0200D800#32) openState) = .next t ∧ t.phase = .fault := by
  refine ⟨by decide +kernel, ?_⟩
  obtain ⟨t, h, ht⟩ := exists_of_nextIs (p := fun t => decide (t.phase = .fault))
    (by decide +kernel : nextIs (step (withEvent (.command 0x0200D800#32) openState)) _ = true)
  exact ⟨t, h, of_decide_eq_true ht⟩

theorem witness_FaultIsStickyUntilReset :
    faultState.phase = .fault ∧ (withEvent (.command 0x01000000#32) faultState).pending = [.command 0x01000000#32] ∧
    (∃ t, step (withEvent (.command 0x03000000#32) faultState) = .next t) ∧
    (∀ rest, (withEvent (.command 0x03000000#32) faultState).pending ≠ .reset :: rest) ∧
    (withEvent .reset faultState).pending = [.reset] := by
  refine ⟨by decide +kernel, by decide +kernel, ⟨_, rfl⟩, ?_, by decide +kernel⟩
  intro rest h
  cases h

theorem witness_CauseIsTheFirstConditionMet_step :
    openState.Inv ∧ (withEvent (.command 0#32) openState).phase ≠ .fault ∧
    ∃ t, step (withEvent (.command 0#32) openState) = .next t ∧ t.phase = .fault := by
  refine ⟨inv_openState, by decide +kernel, ?_⟩
  obtain ⟨t, h, ht⟩ := exists_of_nextIs (p := fun t => decide (t.phase = .fault))
    (by decide +kernel : nextIs (step (withEvent (.command 0#32) openState)) _ = true)
  exact ⟨t, h, of_decide_eq_true ht⟩
/-- The three clauses of an undecodable word. -/
theorem witness_CauseIsTheFirstConditionMet_illcmd :
    Undecodable 0x04000000#32 ∧ Undecodable 0x02200000#32 ∧ Undecodable 0x03000001#32 := by
  unfold Undecodable
  decide +kernel
/-- The two of `SEQ`. -/
theorem witness_CauseIsTheFirstConditionMet_seq :
    (¬ Undecodable 0x0200D800#32 ∧ opc 0x0200D800#32 = 2) ∧ (¬ Undecodable 0x03000000#32 ∧ opc 0x03000000#32 = 3) ∧
    doneState.phase = .done := by
  unfold Undecodable
  decide +kernel
/-- The one of `BADCP`. -/
theorem witness_CauseIsTheFirstConditionMet_badcp :
    ¬ Undecodable 0x0200D800#32 ∧ openState.phase = .absorb ∧
    ¬ IsScalar (BitVec.ofNat 21 (cpField 0x0200D800#32)) := by
  unfold Undecodable IsScalar
  decide +kernel
/-- Commands that raise nothing. -/
theorem witness_CauseIsTheFirstConditionMet_none :
    (¬ Undecodable 0x01000000#32 ∧ opc 0x01000000#32 = 1) ∧
    (¬ Undecodable 0x0210FFFF#32 ∧ IsScalar (BitVec.ofNat 21 (cpField 0x0210FFFF#32))) := by
  unfold Undecodable IsScalar
  decide +kernel

theorem witness_PhaseTransitionsAreComplete :
    (withEvent .reset faultState).pending = [.reset] ∧
    (withEvent (.command 0x01000000#32) faultState).phase = .fault ∧
    (withEvent (.command 0x01000000#32) doneState).phase ≠ .fault ∧ decode (.cmd32 0x01000000#32) = .instr .init ∧
    (withEvent (.command 0x0210FFFF#32) openState).phase = .absorb ∧
    decode (.cmd32 0x0210FFFF#32) = .instr (.putc 0x10FFFF#21) ∧
    decode (.cmd32 0x02110000#32) = .instr (.putc 0x110000#21) ∧
    (withEvent (.command 0x03000000#32) doneState).phase = .done ∧ decode (.cmd32 0x03000000#32) = .instr .final ∧
    decode (.cmd32 0xffffffff#32) = .reject .reservedOpcode ∧
    (withEvent .load openState).pending = [.load] := by decide +kernel

theorem witness_RoundStepsFollowTheirRows :
    (⟨.f00, 0, 7, 0xd76aa478⟩ : StepRow) ∈ round0Rows ∧ (⟨.f15, 15, 22, 0x49b40821⟩ : StepRow) ∈ round0Rows ∧
    (⟨.g16, 1, 5, 0xf61e2562⟩ : StepRow) ∈ round1Rows ∧ (⟨.g31, 12, 20, 0x8d2a4c8a⟩ : StepRow) ∈ round1Rows ∧
    (⟨.h32, 5, 4, 0xfffa3942⟩ : StepRow) ∈ round2Rows ∧ (⟨.h47, 2, 23, 0xc4ac5665⟩ : StepRow) ∈ round2Rows ∧
    (⟨.i48, 0, 6, 0xf4292244⟩ : StepRow) ∈ round3Rows ∧ (⟨.i63, 9, 21, 0xeb86d391⟩ : StepRow) ∈ round3Rows := by
  simp [round0Rows, round1Rows, round2Rows, round3Rows]

theorem witness_EachRoundUsesEveryWordOnce : stepWord (1#2 ++ 5#4) = 10 ∧ stepWord (3#2 ++ 15#4) = 9 := by decide

theorem witness_MicroOperationsKeepArchitecture : IsMicro .f00 ∧ IsMicro .i63 ∧ IsMicro .fnI ∧ IsMicro (.rotl 31) := by
  simp [IsMicro]

theorem witness_RotateLeftIsCircular : (1 : BitVec 5) ≠ 0 ∧ (31 : BitVec 5) ≠ 0 := by decide

theorem witness_SixtyFourStepEventsAreACompress :
    ({ openState with pending := .load :: List.replicate 64 .step ++ [.reset] } : State).pending =
      .load :: List.replicate 64 .step ++ [.reset] := rfl

theorem witness_ByteWriteReplacesOneSlice : Memory.wf openState.buf = true ∧ Memory.wf (letters 63).buf = true := by
  decide +kernel

theorem witness_AbsorbPlacesOneByte :
    Memory.wf (letters 63).buf = true ∧ (letters 63).fill.toNat = 63 ∧ Memory.wf openState.buf = true ∧
    openState.fill.toNat ≠ 63 := by decide +kernel

/-- A length below 2^61, the largest counter, and a length whose counter has wrapped. -/
theorem witness_LengthFieldIsEightTimesTheLength :
    openState.nbytes.toNat = 2 % 2 ^ 61 ∧
    ({ openState with nbytes := BitVec.allOnes 61 } : State).nbytes.toNat = (2 ^ 61 - 1) % 2 ^ 61 ∧
    openState.nbytes.toNat = (2 ^ 61 + 2) % 2 ^ 61 ∧ Memory.wf openState.buf = true := by decide +kernel

theorem witness_PackedBytesAreLegalAndDistinct :
    utf8Bytes 0x80#21 = some [0xc2#8, 0x80#8] ∧ utf8Bytes 0x10FFFF#21 = some [0xf4#8, 0x8f#8, 0xbf#8, 0xbf#8] := by
  decide

theorem witness_LatchHoldsThePackedBytes :
    utf8Bytes 0xDFFF#21 = none ∧ utf8Bytes 0xE000#21 = some [0xee#8, 0x80#8, 0x80#8] := by decide

theorem witness_DigestsAreHexAndDistinct : digestOf initialChain = digestOf initialChain := rfl

theorem witness_AssembledWordsDecodeToTheirLines :
    (AsmOperand.hexadecimal [1, 15, 15, 15, 15, 15]).wellFormed = true ∧
    0x1FFFFF < (AsmOperand.hexadecimal [2, 0, 0, 0, 0, 0]).value := by decide

/-- A `RESET` in `FAULT` and an `INIT` in `DONE`, from states whose hidden registers are not zero. -/
theorem witness_NothingSurvivesResetOrInit :
    ({ faultState with a := 1, I := 5, sum := 7, pending := [.reset] } : State).pending = [.reset] ∧
    ({ doneState with a := 1, I := 5, sum := 7 } : State).phase ≠ .fault := by decide +kernel

end Sys2Proof.Tests
end

section
/-! PROOFS of the family 10_state.md, part 1: what `COMPRESS` and `ABSORB` compute, said once. `COMPRESS` is the
compression function on the chaining registers and the block in the buffer, and `ABSORB` extends the message the
buffer and the chaining registers stand for by one byte. -/

namespace Sys2Proof.Machine

section
variable (s : State)

/-- A run's last step can be split off, as its first one can by definition. -/
theorem runSteps_succ_last (n : Nat) :
    runSteps (n + 1) s = advanceIndex (stepAtIndex (runSteps n s)) := by
  induction n generalizing s with
  | zero => rfl
  | succ n ih => exact ih (advanceIndex (stepAtIndex s))

@[simp] theorem runSteps_buf (n : Nat) : (runSteps n s).buf = s.buf := by
  obtain ⟨w, i, f, u, r, h⟩ := runSteps_frame n s; rw [h]

theorem cfSteps_succ (x : BitVec 4 → Word) (w : Chain) (n : Nat) :
    cfSteps x w (n + 1) = cfStep x (cfSteps x w n) (BitVec.ofNat 6 n) := by
  simp only [cfSteps, List.range_succ, List.foldl_append, List.foldl_cons, List.foldl_nil]

/-- The index counts the steps done since the load (43_compress.md R161). -/
theorem runSteps_loadWorking_I {n : Nat} (hn : n ≤ 63) :
    (runSteps n (loadWorking s)).I = BitVec.ofNat 6 n := by
  induction n with
  | zero => rfl
  | succ n ih =>
    have hI : (stepAtIndex (runSteps n (loadWorking s))).I = BitVec.ofNat 6 n := ih (by omega)
    have h63 : BitVec.ofNat 6 n ≠ 63 := by bv_omega
    rw [runSteps_succ_last, advanceIndex_I, hI, if_neg h63, BitVec.ofNat_add]
    rfl

/-- The working registers after the load and some steps are `CF`'s working tuple (43_compress.md R161, R162). -/
theorem runSteps_loadWorking_working {n : Nat} (hn : n ≤ 64) :
    workingOf (runSteps n (loadWorking s)) = cfSteps (readWord s) (chainOf s) n := by
  induction n with
  | zero => rfl
  | succ n ih =>
    have hread : readWord (runSteps n (loadWorking s)) = readWord s := by
      funext k
      exact readWord_congr (runSteps_buf (loadWorking s) n) k
    have hw : workingOf (advanceIndex (stepAtIndex (runSteps n (loadWorking s)))) =
        workingOf (stepAtIndex (runSteps n (loadWorking s))) := by simp [workingOf]
    rw [runSteps_succ_last, hw, stepAtIndex_working, hread, ih (by omega),
      runSteps_loadWorking_I s (by omega), cfSteps_succ]

/-- `COMPRESS` is the compression function (43_compress.md R161, R162, R168). -/
theorem compress_chain : chainOf (compress s) = compressionFn (chainOf s) (readWord s) := by
  have hw := runSteps_loadWorking_working s (le_refl 64)
  obtain ⟨w, i, f, u, r, h⟩ := runSteps_frame 64 (loadWorking s)
  rw [compressionFn, ← hw, compress, h]
  rfl

end

@[simp] theorem writeByte_chain (s : State) (addr : BitVec 6) (v : Byte) :
    chainOf (writeByte s addr v) = chainOf s := rfl

/-- A byte that does not complete the block leaves the chaining registers (41_padder.md R121). -/
theorem absorb_chain_partial {s : State} (v : Byte) (h : s.fill ≠ 63) : chainOf (absorb v s) = chainOf s := by
  rw [absorb_partial v h]
  rfl

/-- The byte that completes the block has it compressed (41_padder.md R121). -/
theorem absorb_chain_full {s : State} (v : Byte) (h : s.fill = 63) :
    chainOf (absorb v s) = compressionFn (chainOf s) (readWord (writeByte s s.fill v)) := by
  rw [absorb_full v h, ← writeByte_chain s s.fill v, ← compress_chain, chainOf, chainOf]

/-- In both cases the buffer is what it was with the byte written at `FILL` (41_padder.md R121). -/
@[simp] theorem absorb_buf (v : Byte) (s : State) : (absorb v s).buf = (writeByte s s.fill v).buf := by
  unfold absorb
  split <;> simp

/-- Bytes that leave the block unfinished leave the chaining registers (41_padder.md R121). -/
theorem absorbAll_chain {vs : List Byte} {s : State} (h : s.fill.toNat + vs.length < 64) :
    chainOf (absorbAll vs s) = chainOf s := by
  induction vs generalizing s with
  | nil => rfl
  | cons v vs ih =>
    rw [List.length_cons] at h
    have hfill : (s.fill + 1).toNat = s.fill.toNat + 1 := by bv_omega
    rw [absorbAll, ih (by rw [absorb_fill, hfill]; omega), absorb_chain_partial v (by bv_omega)]

end Sys2Proof.Machine

end

section
/-! PROOFS of the family 10_state.md, part 2: the bytes a state stands for. `Streamed` is `Absorbed` without the
phase and the counter, so that it also holds between the bytes of a command and of padding, which `NBYTES` does not
count. -/

namespace Sys2Proof.Machine

/-- The address of byte `j` of word `k` as a number (20_memory.md R52). -/
theorem byteOfWord_toNat (k : BitVec 4) (j : BitVec 2) : (byteOfWord k j).toNat = 4 * k.toNat + j.toNat := by
  have hj : j.toNat < 2 ^ 2 := j.isLt
  rw [byteOfWord, BitVec.toNat_append, ← Nat.shiftLeft_add_eq_or_of_lt hj, Nat.shiftLeft_eq]
  omega

/-- A buffer that holds block `q` of a byte sequence gives that block's words (41_padder.md R127). -/
theorem readWord_eq_blockAt {s : State} {bytes : List Byte} {q : Nat}
    (h : ∀ j : BitVec 6, readByte s j = bytes.getD (64 * q + j.toNat) 0) : readWord s = blockAt bytes q := by
  funext k
  have hbyte : ∀ j : BitVec 2,
      readByte s (byteOfWord k j) = bytes.getD (4 * (16 * q + k.toNat) + j.toNat) 0 := by
    intro j
    rw [h, byteOfWord_toNat]
    congr 1
    omega
  simp only [readWord, hbyte]
  rfl

/-- The chaining value of whole blocks does not depend on what follows them. -/
theorem chainAfter_append {bytes : List Byte} (more : List Byte) {n : Nat} (h : 64 * n ≤ bytes.length) :
    chainAfter (bytes ++ more) n = chainAfter bytes n := by
  induction n with
  | zero => simp
  | succ n ih =>
    have hblock : blockAt (bytes ++ more) n = blockAt bytes n := by
      funext k
      have hk : k.toNat < 16 := k.isLt
      have hget : ∀ j < 4, (bytes ++ more).getD (4 * (16 * n + k.toNat) + j) 0 =
          bytes.getD (4 * (16 * n + k.toNat) + j) 0 := fun j hj => List.getD_append _ _ _ _ (by omega)
      rw [blockAt, blockAt, wordAt, wordAt, hget 3 (by omega), hget 2 (by omega), hget 1 (by omega)]
      exact congrArg _ (hget 0 (by omega))
    rw [chainAfter_succ, chainAfter_succ, ih (by omega), hblock]

/-- The buffer, `FILL` and the chaining registers stand for the byte sequence `msg`: its whole blocks are
compressed and its rest stands in the buffer (10_state.md R28; 41_padder.md R128). -/
structure State.Streamed (msg : List Byte) (s : State) : Prop where
  buf_wf : Memory.wf s.buf = true
  fill_eq : s.fill.toNat = msg.length % 64
  bytes_eq : ∀ j : BitVec 6, j.toNat < msg.length % 64 →
    readByte s j = msg.getD (64 * (msg.length / 64) + j.toNat) 0
  chain_eq : chainOf s = chainAfter msg (msg.length / 64)

section
variable {s : State} {msg : List Byte}

/-- With the byte written at `FILL`, the buffer holds the rest of the longer sequence. -/
theorem State.Streamed.readByte_writeByte_fill (h : s.Streamed msg) (v : Byte) {j : BitVec 6}
    (hj : j.toNat ≤ msg.length % 64) :
    readByte (writeByte s s.fill v) j = (msg ++ [v]).getD (64 * (msg.length / 64) + j.toNat) 0 := by
  have hdiv := Nat.div_add_mod msg.length 64
  rw [readByte_writeByte s.fill j v h.buf_wf]
  by_cases hf : j = s.fill
  · have hlen : 64 * (msg.length / 64) + j.toNat = msg.length := by rw [hf, h.fill_eq, hdiv]
    rw [if_pos hf, hlen, List.getD_append_right _ _ _ _ (le_refl _), Nat.sub_self]
    rfl
  · have hlt : j.toNat < msg.length % 64 := by
      have hne : j.toNat ≠ s.fill.toNat := fun e => hf (BitVec.eq_of_toNat_eq e)
      rw [h.fill_eq] at hne
      omega
    rw [if_neg hf, h.bytes_eq j hlt, List.getD_append _ _ _ _ (by omega)]

/-- `ABSORB` extends the byte sequence by one byte (41_padder.md R121, R128). -/
theorem State.Streamed.absorb (h : s.Streamed msg) (v : Byte) : (absorb v s).Streamed (msg ++ [v]) := by
  have hdiv := Nat.div_add_mod msg.length 64
  have hchain := chainAfter_append (bytes := msg) [v] (n := msg.length / 64) (by omega)
  have hwf := absorb_wf v s h.buf_wf
  have hread : ∀ j, readByte (Machine.absorb v s) j = readByte (writeByte s s.fill v) j :=
    readByte_congr (absorb_buf v s)
  have hlen : (msg ++ [v]).length = msg.length + 1 := by simp
  by_cases hf : s.fill = 63
  · have hmod : msg.length % 64 = 63 := by rw [← h.fill_eq, hf]; rfl
    have hblock : readWord (writeByte s s.fill v) = blockAt (msg ++ [v]) (msg.length / 64) :=
      readWord_eq_blockAt fun j => h.readByte_writeByte_fill v (by have := j.isLt; omega)
    have hq : (msg.length + 1) / 64 = msg.length / 64 + 1 := by omega
    refine ⟨hwf, ?_, fun j hj => ?_, ?_⟩
    · rw [absorb_fill, hf, hlen]
      change 0 = _
      omega
    · rw [hlen] at hj
      omega
    · rw [absorb_chain_full v hf, hblock, hlen, hq, chainAfter_succ, hchain, h.chain_eq]
  · have hmod : msg.length % 64 ≠ 63 := fun e => hf (BitVec.eq_of_toNat_eq (h.fill_eq.trans e))
    have hq : (msg.length + 1) / 64 = msg.length / 64 := by omega
    refine ⟨hwf, ?_, fun j hj => ?_, ?_⟩
    · have hfill := h.fill_eq
      rw [absorb_fill, hlen]
      bv_omega
    · rw [hlen] at hj ⊢
      rw [hread, hq, h.readByte_writeByte_fill v (by omega)]
    · rw [absorb_chain_partial v hf, hlen, hq, hchain, h.chain_eq]

/-- Absorbing bytes extends the byte sequence by them (41_padder.md R128). -/
theorem State.Streamed.absorbAll (h : s.Streamed msg) (vs : List Byte) :
    (absorbAll vs s).Streamed (msg ++ vs) := by
  induction vs generalizing s msg with
  | nil => simpa [Machine.absorbAll] using h
  | cons v vs ih => simpa [Machine.absorbAll] using ih (h.absorb v)

/-- An absorbed message with a canonical buffer is streamed. -/
theorem State.Absorbed.streamed (h : s.Absorbed msg) (hwf : Memory.wf s.buf = true) : s.Streamed msg :=
  ⟨hwf, h.fill_eq, h.bytes_eq, h.chain_eq⟩

end

end Sys2Proof.Machine
end

section
/-! PROOFS of the family 10_state.md, part 3: agreement on architectural state. Every operation of the machine takes
states that agree to states that agree, and the invariants speak of architectural state only. -/

namespace Sys2Proof.Machine

theorem SameArch.refl (s : State) : SameArch s s := ⟨rfl, rfl, rfl, rfl, rfl, rfl, rfl, rfl, rfl, rfl⟩

theorem SameArch.symm {s t : State} (h : SameArch s t) : SameArch t s :=
  ⟨h.A_eq.symm, h.B_eq.symm, h.C_eq.symm, h.D_eq.symm, h.buf_eq.symm, h.fill_eq.symm, h.nbytes_eq.symm,
    h.phase_eq.symm, h.cause_eq.symm, h.hex_eq.symm⟩

theorem SameArch.trans {s t u : State} (h : SameArch s t) (k : SameArch t u) : SameArch s u :=
  ⟨h.A_eq.trans k.A_eq, h.B_eq.trans k.B_eq, h.C_eq.trans k.C_eq, h.D_eq.trans k.D_eq, h.buf_eq.trans k.buf_eq,
    h.fill_eq.trans k.fill_eq, h.nbytes_eq.trans k.nbytes_eq, h.phase_eq.trans k.phase_eq,
    h.cause_eq.trans k.cause_eq, h.hex_eq.trans k.hex_eq⟩

/-- The four chaining registers may be compared as one value. -/
theorem SameArch.of_chain {s t : State} (hc : chainOf s = chainOf t) (hb : s.buf = t.buf) (hf : s.fill = t.fill)
    (hn : s.nbytes = t.nbytes) (hp : s.phase = t.phase) (hk : s.cause = t.cause) (hh : s.hex = t.hex) :
    SameArch s t := by
  obtain ⟨hA, hB, hC, hD⟩ := Chain.mk.inj hc
  exact ⟨hA, hB, hC, hD, hb, hf, hn, hp, hk, hh⟩

section
variable (s : State)

/-- Hidden registers, the step's signals and the model's own fields are outside the architecture
(10_state.md R29 to R31). -/
theorem sameArch_hidden (w : Chain) (i : BitVec 6) (encb : Vector Byte 4) (encn : BitVec 3) (f u r : Word)
    (n : Nat) (evs : List Event) :
    SameArch { s with a := w.A, b := w.B, c := w.C, d := w.D, I := i, encb := encb, encn := encn, f := f,
                      sum := u, rot := r, epoch := n, pending := evs } s :=
  ⟨rfl, rfl, rfl, rfl, rfl, rfl, rfl, rfl, rfl, rfl⟩

theorem closeCommand_sameArch : SameArch (closeCommand s) s :=
  sameArch_hidden s ⟨_, _, _, _⟩ _ _ _ _ _ _ _ _

theorem latchBytes_sameArch (bs : List Byte) : SameArch (latchBytes bs s) s :=
  sameArch_hidden s (workingOf s) s.I _ _ s.f s.sum s.rot s.epoch s.pending

/-- Nothing architectural survives `RESET` (70_reset_and_hazards.md R320 to R322). -/
theorem resetCore_sameArch : SameArch (resetCore s) State.reset :=
  ⟨rfl, rfl, rfl, rfl, rfl, rfl, rfl, rfl, rfl, rfl⟩

/-- `INIT` writes all the architecture but `CAUSE` (45_commands.md R266). -/
theorem openMessage_sameArch {s : State} (hc : s.cause = .none) : SameArch (openMessage s) State.reset :=
  ⟨rfl, rfl, rfl, rfl, rfl, rfl, rfl, rfl, hc, rfl⟩

end

section
variable {s t : State} (h : SameArch s t)
include h

theorem SameArch.chainOf_eq : chainOf s = chainOf t := by
  rw [chainOf, chainOf, h.A_eq, h.B_eq, h.C_eq, h.D_eq]

theorem SameArch.pending (evs evs' : List Event) :
    SameArch { s with pending := evs } { t with pending := evs' } :=
  ⟨h.A_eq, h.B_eq, h.C_eq, h.D_eq, h.buf_eq, h.fill_eq, h.nbytes_eq, h.phase_eq, h.cause_eq, h.hex_eq⟩

theorem SameArch.nbytes (n : BitVec 61) : SameArch { s with nbytes := n } { t with nbytes := n } :=
  ⟨h.A_eq, h.B_eq, h.C_eq, h.D_eq, h.buf_eq, h.fill_eq, rfl, h.phase_eq, h.cause_eq, h.hex_eq⟩

theorem SameArch.writeByte (addr : BitVec 6) (v : Byte) : SameArch (writeByte s addr v) (writeByte t addr v) :=
  ⟨h.A_eq, h.B_eq, h.C_eq, h.D_eq, congrArg (Memory.write · _ v) h.buf_eq, h.fill_eq, h.nbytes_eq, h.phase_eq,
    h.cause_eq, h.hex_eq⟩

/-- One byte is absorbed alike: the chaining registers come from `CF` (41_padder.md R121). -/
theorem SameArch.absorb (v : Byte) : SameArch (absorb v s) (absorb v t) := by
  have hw : SameArch (Machine.writeByte s s.fill v) (Machine.writeByte t t.fill v) := by
    rw [← h.fill_eq]
    exact h.writeByte s.fill v
  have hread : readWord (Machine.writeByte s s.fill v) = readWord (Machine.writeByte t t.fill v) :=
    funext (readWord_congr hw.buf_eq)
  have hchain : chainOf (Machine.absorb v s) = chainOf (Machine.absorb v t) := by
    by_cases hf : s.fill = 63
    · rw [absorb_chain_full v hf, absorb_chain_full v (h.fill_eq ▸ hf), h.chainOf_eq, hread]
    · rw [absorb_chain_partial v hf, absorb_chain_partial v (h.fill_eq ▸ hf), h.chainOf_eq]
  refine SameArch.of_chain hchain ?_ ?_ ?_ ?_ ?_ ?_
  · rw [absorb_buf, absorb_buf, hw.buf_eq]
  · rw [absorb_fill, absorb_fill, h.fill_eq]
  · rw [absorb_nbytes, absorb_nbytes, h.nbytes_eq]
  · rw [absorb_phase, absorb_phase, h.phase_eq]
  · rw [absorb_cause, absorb_cause, h.cause_eq]
  · rw [absorb_hex, absorb_hex, h.hex_eq]

theorem SameArch.absorbAll (vs : List Byte) : SameArch (absorbAll vs s) (absorbAll vs t) := by
  induction vs generalizing s t with
  | nil => exact h
  | cons v vs ih => exact ih (h.absorb v)

theorem SameArch.appendBytes (vs : List Byte) : SameArch (appendBytes vs s) (appendBytes vs t) := by
  rw [appendBytes_eq, appendBytes_eq, h.nbytes_eq]
  exact (h.absorbAll vs).nbytes _

theorem SameArch.padZeros (n : Nat) : SameArch (padZeros n s) (padZeros n t) := by
  induction n generalizing s t with
  | zero => exact h
  | succ n ih =>
    rw [Machine.padZeros, Machine.padZeros, h.fill_eq]
    split
    · exact h
    · exact ih (h.absorb _)

theorem SameArch.pad : SameArch (pad s) (pad t) := by
  have hlen : lengthField s = lengthField t := by rw [lengthField, lengthField, h.nbytes_eq]
  rw [Machine.pad, Machine.pad, hlen]
  exact ((h.absorb _).padZeros 64).absorbAll _

theorem SameArch.phase (p : Phase) : SameArch { s with phase := p } { t with phase := p } :=
  ⟨h.A_eq, h.B_eq, h.C_eq, h.D_eq, h.buf_eq, h.fill_eq, h.nbytes_eq, rfl, h.cause_eq, h.hex_eq⟩

theorem SameArch.serialize : SameArch (serialize s) (serialize t) := by
  constructor <;> simp [h.A_eq, h.B_eq, h.C_eq, h.D_eq, h.buf_eq, h.fill_eq, h.nbytes_eq, h.phase_eq, h.cause_eq]

theorem SameArch.raise (c : Cause) : SameArch (raise c s) (raise c t) :=
  ⟨h.A_eq, h.B_eq, h.C_eq, h.D_eq, h.buf_eq, h.fill_eq, h.nbytes_eq, rfl, rfl, rfl⟩

theorem SameArch.openMessage : SameArch (openMessage s) (openMessage t) :=
  ⟨rfl, rfl, rfl, rfl, rfl, rfl, rfl, rfl, h.cause_eq, rfl⟩

end

/-- What the invariants say is architectural. -/
theorem State.Inv.of_sameArch {s t : State} (hi : s.Inv) (h : SameArch t s) : t.Inv where
  buf_wf := by rw [h.buf_eq]; exact hi.buf_wf
  cause_iff := by rw [h.cause_eq, h.phase_eq]; exact hi.cause_iff
  hex_zero := by rw [h.phase_eq, h.hex_eq]; exact hi.hex_zero
  hex_digest := by rw [h.phase_eq, h.hex_eq, h.A_eq, h.B_eq, h.C_eq, h.D_eq]; exact hi.hex_digest
  fill_done := by rw [h.phase_eq, h.fill_eq]; exact hi.fill_done
  fill_absorb := by rw [h.phase_eq, h.fill_eq, h.nbytes_eq]; exact hi.fill_absorb

/-- What a state has absorbed is architectural. -/
theorem State.Absorbed.of_sameArch {s t : State} {msg : List Byte} (ha : s.Absorbed msg) (h : SameArch t s) :
    t.Absorbed msg where
  phase_eq := h.phase_eq.trans ha.phase_eq
  nbytes_eq := by rw [h.nbytes_eq]; exact ha.nbytes_eq
  fill_eq := by rw [h.fill_eq]; exact ha.fill_eq
  bytes_eq j hj := (readByte_congr h.buf_eq j).trans (ha.bytes_eq j hj)
  chain_eq := h.chainOf_eq.trans ha.chain_eq

/-- Counted bytes extend the absorbed message, also past the wrap of the counter (10_state.md R24, R28). -/
theorem State.Absorbed.appendBytes {s : State} {msg : List Byte} (ha : s.Absorbed msg)
    (hwf : Memory.wf s.buf = true) (bs : List Byte) :
    (appendBytes bs s).Absorbed (msg ++ bs) ∧ Memory.wf (appendBytes bs s).buf = true := by
  have hstream := (ha.streamed hwf).absorbAll bs
  have hcount : (s.nbytes + BitVec.ofNat 61 bs.length).toNat = (msg ++ bs).length % 2 ^ 61 := by
    rw [BitVec.toNat_add, ha.nbytes_eq, BitVec.toNat_ofNat, List.length_append, ← Nat.add_mod]
  rw [appendBytes_eq]
  exact ⟨⟨(absorbAll_phase bs s).trans ha.phase_eq, hcount, hstream.fill_eq, hstream.bytes_eq, hstream.chain_eq⟩,
    hstream.buf_wf⟩

end Sys2Proof.Machine
end

section
/-! PROOFS of the family 10_state.md, part 4: the invariants between commands. Each operation a step can end with
keeps them; the step lemma collects them by `step_cases`. -/

namespace Sys2Proof.Machine

theorem reset_inv : State.reset.Inv where
  buf_wf := rfl
  cause_iff := by decide
  hex_zero _ := rfl
  hex_digest h := by cases h
  fill_done h := by cases h
  fill_absorb _ := rfl

section
variable {s : State}

/-- A fault sets the phase, the cause and `HEX` together (60_exceptions.md R293). -/
theorem raise_inv {c : Cause} (hwf : Memory.wf s.buf = true) (hc : c ≠ .none) : (raise c s).Inv where
  buf_wf := hwf
  cause_iff := ⟨fun _ => rfl, fun _ => hc⟩
  hex_zero _ := rfl
  hex_digest h := by cases h
  fill_done h := by cases h
  fill_absorb h := by cases h

/-- Counted bytes move `FILL` and `NBYTES` alike (10_state.md R28). -/
theorem appendBytes_inv (vs : List Byte) (hi : s.Inv) (hp : s.phase = .absorb) : (appendBytes vs s).Inv := by
  have hfill := hi.fill_absorb hp
  rw [appendBytes_eq]
  exact {
    buf_wf := absorbAll_wf vs s hi.buf_wf
    cause_iff := by simpa using hi.cause_iff
    hex_zero := by simpa using hi.hex_zero
    hex_digest := by simp [hp]
    fill_done := by simp [hp]
    fill_absorb := fun _ => by
      simp only [absorbAll_fill, BitVec.toNat_add, BitVec.toNat_ofNat]
      omega }

/-- A closed message has its digest in `HEX` and its block used up (10_state.md R27, R28; 45_commands.md R270). -/
theorem finish_inv (hi : s.Inv) (hp : s.phase = .absorb) :
    ({ serialize (pad s) with phase := .done } : State).Inv where
  buf_wf := by simpa using pad_wf s hi.buf_wf
  cause_iff := by simpa [hp] using hi.cause_iff
  hex_zero h := absurd rfl h
  hex_digest _ := by simp
  fill_done _ := by simp
  fill_absorb h := by cases h

/-- Outside `FAULT` the cause is not set (10_state.md R26). -/
theorem State.Inv.cause_none (hi : s.Inv) (hp : s.phase ≠ .fault) : s.cause = .none :=
  Decidable.not_not.mp (mt hi.cause_iff.mp hp)

end

/-- Every step keeps the invariants between commands (10_state.md R26 to R28). -/
theorem step_inv {s t : State} (hi : s.Inv) (h : step s = .next t) : t.Inv := by
  have taken : ∀ rest, ({ s with pending := rest } : State).Inv := fun rest =>
    hi.of_sameArch ((SameArch.refl s).pending rest s.pending)
  cases step_cases h with
  | idle _ e => rwa [e]
  | ignored w rest _ _ e => rw [e]; exact taken rest
  | illcmd w rest _ _ _ _ e => rw [e]; exact raise_inv hi.buf_wf (by decide)
  | seq w rest _ _ _ _ _ e => rw [e]; exact raise_inv hi.buf_wf (by decide)
  | badcp w rest _ _ _ _ _ e => rw [e]; exact raise_inv hi.buf_wf (by decide)
  | init w rest _ hp _ e => rw [e]; exact reset_inv.of_sameArch (openMessage_sameArch (hi.cause_none hp))
  | putc w rest cp bs _ hp _ _ e =>
    rw [e]
    have hlatch := (taken rest).of_sameArch (latchBytes_sameArch _ bs)
    exact (appendBytes_inv bs hlatch hp).of_sameArch (closeCommand_sameArch _)
  | final w rest _ hp _ e =>
    rw [e]
    exact (finish_inv (taken rest) hp).of_sameArch (closeCommand_sameArch _)
  | reset rest _ e => rw [e]; exact reset_inv.of_sameArch (resetCore_sameArch _)
  | micro ev rest _ _ e =>
    obtain ⟨w, i, f, u, r, rfl⟩ := e
    exact hi.of_sameArch (sameArch_hidden s w i s.encb s.encn f u r s.epoch rest)

end Sys2Proof.Machine
end

section
/-! PROOFS of the family 10_state.md, part 5: no hidden register decides what a step does to the architecture. Two
outcomes are alike when both are next states that agree on the architecture and on what is pending. -/

namespace Sys2Proof.Machine

/-- Both outcomes are next states, and these agree on all architectural state and on what is pending. -/
def Alike (o o' : Host.Outcome State Fault Refusal) : Prop :=
  ∃ t t', o = .next t ∧ o' = .next t' ∧ SameArch t t' ∧ t.pending = t'.pending

theorem Alike.of_next {t t' : State} (h : SameArch t t') (hp : t.pending = t'.pending) :
    Alike (.next t) (.next t') := ⟨t, t', rfl, rfl, h, hp⟩

/-- The sequencer's part writes the step index only, which is hidden (10_state.md R29). -/
theorem Alike.afterStep {o o' : Host.Outcome State Fault Refusal} (h : Alike o o') :
    Alike (afterStep o) (afterStep o') := by
  obtain ⟨t, t', rfl, rfl, harch, hp⟩ := h
  have hidden : ∀ u : State, SameArch (advanceIndex u) u := fun u => by
    rw [advanceIndex_eq]
    exact sameArch_hidden u (workingOf u) _ u.encb u.encn u.f u.sum u.rot u.epoch u.pending
  exact Alike.of_next ((hidden t).trans (harch.trans (hidden t').symm)) (by simpa using hp)

section
variable {s s' : State} (h : SameArch s s') (hp : s.pending = s'.pending)
include h hp

theorem raise_alike (c : Cause) : Alike (.next (raise c s)) (.next (raise c s')) :=
  Alike.of_next (h.raise c) hp

theorem execInit_alike : Alike (execInit s) (execInit s') := by
  by_cases hf : s.phase = .fault
  · rw [execInit_fault hf, execInit_fault (h.phase_eq ▸ hf)]
    exact Alike.of_next h hp
  · rw [execInit_open hf, execInit_open (h.phase_eq ▸ hf)]
    exact Alike.of_next h.openMessage hp

theorem execPutc_alike (cp : BitVec 21) : Alike (execPutc cp s) (execPutc cp s') := by
  cases hs : s.phase with
  | fault =>
    rw [execPutc_fault cp hs, execPutc_fault cp (h.phase_eq ▸ hs)]
    exact Alike.of_next h hp
  | done =>
    rw [execPutc_done cp hs, execPutc_done cp (h.phase_eq ▸ hs)]
    exact raise_alike h hp .seq
  | absorb =>
    cases hb : utf8Bytes cp with
    | none =>
      rw [execPutc_bad hs hb, execPutc_bad (h.phase_eq ▸ hs) hb]
      exact raise_alike h hp .badcp
    | some bs =>
      rw [execPutc_legal hs hb, execPutc_legal (h.phase_eq ▸ hs) hb]
      have hlatch : SameArch (latchBytes bs s) (latchBytes bs s') :=
        (latchBytes_sameArch s bs).trans (h.trans (latchBytes_sameArch s' bs).symm)
      refine Alike.of_next ?_ (by simpa [appendBytes_eq] using hp)
      exact (closeCommand_sameArch _).trans ((hlatch.appendBytes bs).trans (closeCommand_sameArch _).symm)

theorem execFinal_alike : Alike (execFinal s) (execFinal s') := by
  cases hs : s.phase with
  | fault =>
    rw [execFinal_fault hs, execFinal_fault (h.phase_eq ▸ hs)]
    exact Alike.of_next h hp
  | done =>
    rw [execFinal_done hs, execFinal_done (h.phase_eq ▸ hs)]
    exact raise_alike h hp .seq
  | absorb =>
    rw [execFinal_absorb hs, execFinal_absorb (h.phase_eq ▸ hs)]
    refine Alike.of_next ?_ (by simpa using hp)
    exact (closeCommand_sameArch _).trans ((h.pad.serialize.phase .done).trans (closeCommand_sameArch _).symm)

/-- Micro-operations, even different ones, write hidden state only (42_alu.md R140; 43_compress.md R166). -/
theorem exec_micro_alike {i i' : Instr} (hi : Claims.IsMicro i) (hi' : Claims.IsMicro i') :
    Alike (exec i s) (exec i' s') := by
  have frame : ∀ {j : Instr}, Claims.IsMicro j → ∀ u : State,
      ∃ v, exec j u = .next v ∧ SameArch v u ∧ v.pending = u.pending := by
    rintro j ⟨h1, h2, h3⟩ u
    obtain ⟨w, f, x, r, hx⟩ := exec_micro h1 h2 h3 u
    exact ⟨_, hx, sameArch_hidden u w u.I u.encb u.encn f x r u.epoch u.pending, rfl⟩
  obtain ⟨v, hv, ha, hq⟩ := frame hi s
  obtain ⟨v', hv', ha', hq'⟩ := frame hi' s'
  rw [hv, hv']
  exact Alike.of_next (ha.trans (h.trans ha'.symm)) (hq.trans (hp.trans hq'.symm))

theorem executeWord_alike (w : BitVec 32) : Alike (executeWord w s) (executeWord w s') := by
  by_cases hf : s.phase = .fault
  · rw [executeWord_fault w hf, executeWord_fault w (h.phase_eq ▸ hf)]
    exact Alike.of_next h hp
  · have hf' : s'.phase ≠ .fault := h.phase_eq ▸ hf
    cases hd : decodeCommand w with
    | reject why =>
      rw [executeWord_reject hf hd, executeWord_reject hf' hd]
      exact raise_alike h hp .illcmd
    | instr i =>
      rw [executeWord_instr hf hd, executeWord_instr hf' hd]
      rcases decodeCommand_instr hd with rfl | ⟨cp, rfl⟩ | rfl
      · exact execInit_alike h hp
      · exact execPutc_alike h hp cp
      · exact execFinal_alike h hp

/-- One event has alike outcomes; for a step event the two step indices may select different steps. -/
theorem executeEvent_alike (e : Event) : Alike (executeEvent e s) (executeEvent e s') := by
  cases e with
  | command w => exact executeWord_alike h hp w
  | reset => exact Alike.of_next ((resetCore_sameArch s).trans (resetCore_sameArch s').symm) hp
  | load =>
    have hidden : ∀ u : State, SameArch (loadWorking u) u := fun u =>
      sameArch_hidden u (chainOf u) 0 u.encb u.encn u.f u.sum u.rot u.epoch u.pending
    exact Alike.of_next ((hidden s).trans (h.trans (hidden s').symm)) hp
  | step => exact (exec_micro_alike h hp (decodeStep_micro s.I) (decodeStep_micro s'.I)).afterStep
  | select fsel => exact exec_micro_alike h hp (decodeSelect_micro fsel) (decodeSelect_micro fsel)
  | rotate n =>
    have hm : Claims.IsMicro (.rotl n) := by simp [Claims.IsMicro]
    exact exec_micro_alike h hp hm hm

theorem step_alike : Alike (step s) (step s') := by
  cases hs : s.pending with
  | nil =>
    rw [step_nil hs, step_nil (hp ▸ hs)]
    exact Alike.of_next h hp
  | cons e rest =>
    rw [step_cons hs, step_cons (hp ▸ hs)]
    exact executeEvent_alike (h.pending rest rest) rfl e

end

end Sys2Proof.Machine
end

section
/-! PROOFS of the family 10_state.md, part 6: the remaining facts about the chaining registers, `HEX` and
`STATUS`. -/

open Sys2Proof.Claims

namespace Sys2Proof.Machine

theorem raise_chain (c : Cause) (s : State) : chainOf (raise c s) = chainOf s := rfl

/-- Counted bytes that leave the block unfinished leave the chaining registers (41_padder.md R121). -/
theorem appendBytes_chain {vs : List Byte} {s : State} (h : s.fill.toNat + vs.length < 64) :
    chainOf (appendBytes vs s) = chainOf s := by
  rw [appendBytes_eq]
  exact absorbAll_chain h

/-- A digest character is some nibble's digit (44_serializer.md R252). -/
theorem digestChars_hexChar (A B C D : Word) (j : Fin 32) : ∃ n, (digestChars A B C D)[j] = hexChar n := by
  simp only [digestChars, Fin.getElem_fin, Vector.getElem_ofFn]
  split
  · exact ⟨_, rfl⟩
  · exact ⟨_, rfl⟩

/-- A nibble's digit is a lowercase hexadecimal one (44_serializer.md R250). -/
theorem hexChar_range (n : BitVec 4) : (0x30 ≤ (hexChar n).toNat ∧ (hexChar n).toNat ≤ 0x39) ∨
    (0x61 ≤ (hexChar n).toNat ∧ (hexChar n).toNat ≤ 0x66) := by
  revert n
  decide

/-- The invariants imply what R27 says of `HEX`. -/
theorem State.Inv.hexFollowsPhase {s : State} (hi : s.Inv) : HexFollowsPhase s := by
  refine ⟨hi.hex_digest, fun hp j => ?_, fun hp j => ?_⟩
  · obtain ⟨n, hn⟩ := digestChars_hexChar s.A s.B s.C s.D j
    rw [readHex, hi.hex_digest hp, hn]
    exact hexChar_range n
  · rw [readHex, hi.hex_zero hp]
    simp

theorem exec_init (s : State) : exec .init s = execInit s := rfl

/-- The block buffer is all zero after reset (10_state.md R35). -/
theorem readWord_reset (k : BitVec 4) : readWord State.reset k = 0 := by
  have hbyte : ∀ addr, readByte State.reset addr = 0x00#8 := fun _ => rfl
  simp only [readWord, hbyte]
  rfl

/-- The fields of `STATUS` as numbers (10_state.md R25). -/
theorem statusByte_toNat (s : State) :
    (statusByte s).toNat = 4 * (causeCode s.cause).toNat + (phaseCode s.phase).toNat := by
  unfold statusByte
  generalize causeCode s.cause = c
  generalize phaseCode s.phase = p
  revert c p
  decide

end Sys2Proof.Machine
end

section
/-! PROOFS of the family 10_state.md, part 7: the statements settled. -/

namespace Sys2Proof

open Machine Claims

/-- Settles O13, by the step lemma `step_inv`. -/
theorem everyStepKeepsTheInvariants : Obligations.EveryStepKeepsTheInvariants :=
  fun _ _ => step_inv

/-- Settles O14: the bytes extend the streamed message one at a time, and `NBYTES` counts them. -/
theorem putcExtendsTheAbsorbedMessage : Obligations.PutcExtendsTheAbsorbedMessage := by
  intro s msg bs cp hwf ha hb
  have hlatch : (latchBytes bs s).Absorbed msg := ha.of_sameArch (latchBytes_sameArch s bs)
  have happ := hlatch.appendBytes hwf bs
  have hclose := closeCommand_sameArch (appendBytes bs (latchBytes bs s))
  refine ⟨_, execPutc_legal ha.phase_eq hb, ?_, happ.1.of_sameArch hclose⟩
  rw [hclose.buf_eq]
  exact happ.2

/-- Settles O17, by the relational step lemma `step_alike`. -/
theorem hiddenStateNeverReachesArchitecture : Obligations.HiddenStateNeverReachesArchitecture :=
  fun _ _ h hp => step_alike h hp

/-- Settles O18, by the cases of a step: the others leave the chaining registers. -/
theorem chainingStateChangesOnlyWithABlock : Obligations.ChainingStateChangesOnlyWithABlock := by
  intro s t hstep hne
  cases step_cases hstep with
  | idle _ e => exact absurd (congrArg chainOf e) hne
  | ignored w rest _ _ e => exact absurd (congrArg chainOf e) hne
  | illcmd w rest _ _ _ _ e => exact absurd ((congrArg chainOf e).trans (raise_chain _ _)) hne
  | seq w rest _ _ _ _ _ e => exact absurd ((congrArg chainOf e).trans (raise_chain _ _)) hne
  | badcp w rest _ _ _ _ _ e => exact absurd ((congrArg chainOf e).trans (raise_chain _ _)) hne
  | init w rest h hp hd _ => exact ⟨rest, .inr ⟨w, h, hp, .inl hd⟩⟩
  | putc w rest cp bs h hp hd hb e =>
    refine ⟨rest, .inr ⟨w, h, by simp [hp], .inr (.inr ⟨cp, bs, hd, hb, ?_⟩)⟩⟩
    by_contra hlt
    have hsame := (closeCommand_sameArch (appendBytes bs (latchBytes bs { s with pending := rest }))).chainOf_eq
    rw [appendBytes_chain (by rw [latchBytes_fill]; exact Nat.lt_of_not_le hlt)] at hsame
    exact hne ((congrArg chainOf e).trans hsame)
  | final w rest h hp hd _ => exact ⟨rest, .inr ⟨w, h, by simp [hp], .inr (.inl hd)⟩⟩
  | reset rest h _ => exact ⟨rest, .inl h⟩
  | micro ev rest _ _ e =>
    obtain ⟨w, i, f, u, r, e⟩ := e
    exact absurd (congrArg chainOf e) hne

/-- Settles O20: the invariants imply it, and hold after reset and after every step. -/
theorem hexIsADigestExactlyInDone : Obligations.HexIsADigestExactlyInDone :=
  ⟨reset_inv.hexFollowsPhase, fun _ _ hi h => (step_inv hi h).hexFollowsPhase⟩

/-- Settles O10; with `CAUSE` set the phase is `FAULT`, where `INIT` is ignored. -/
theorem resetStateIsTheSpecs : Obligations.ResetStateIsTheSpecs := by
  have hhex : ∀ j, readHex State.reset j = 0x00#8 := reset_inv.hexFollowsPhase.2.2 (by decide)
  have hinit : ∃ t, exec .init State.reset = .next t ∧ SameArch t State.reset :=
    ⟨_, (exec_init _).trans (execInit_open (by decide)), openMessage_sameArch rfl⟩
  exact ⟨rfl, readWord_reset, rfl, rfl, rfl, rfl, rfl, hhex, hinit,
    fun s hi hc => (exec_init s).trans (execInit_fault (hi.cause_iff.mp hc))⟩

/-- Settles O12. -/
theorem resetStateMeetsTheInvariants : Obligations.ResetStateMeetsTheInvariants := reset_inv

/-- Settles O29, from the sum of the two codes. -/
theorem statusBitsAreTheSpecs : Obligations.StatusBitsAreTheSpecs := by
  intro s
  have hp : (phaseCode s.phase).toNat < 4 := (phaseCode s.phase).isLt
  have hc : (causeCode s.cause).toNat < 4 := (causeCode s.cause).isLt
  have hsum := statusByte_toNat s
  have hlow : (statusByte s).toNat % 4 = (phaseCode s.phase).toNat := by omega
  have hhigh : (statusByte s).toNat / 4 % 4 = (causeCode s.cause).toNat := by omega
  refine ⟨hlow.trans ?_, hhigh.trans ?_, by omega⟩
  · cases s.phase <;> rfl
  · cases s.cause <;> rfl

end Sys2Proof
end

section
/-! PROOFS of the family 20_memory.md, part 1: a word of the block buffer as its bytes, as a number and bit by
bit. -/

namespace Sys2Proof.Machine

/-- The address of byte `j` of word `k` (20_memory.md R52). -/
theorem byteOfWord_eq_ofNat (k : BitVec 4) (j : BitVec 2) :
    byteOfWord k j = BitVec.ofNat 6 (4 * k.toNat + j.toNat) := by
  rw [← byteOfWord_toNat, BitVec.ofNat_toNat, BitVec.setWidth_eq]

/-- A byte appended below, as a number. -/
theorem toNat_append_byte {n : Nat} (x : BitVec n) (b : Byte) :
    (x ++ b).toNat = x.toNat * 2 ^ 8 + b.toNat := by
  rw [BitVec.toNat_append, ← Nat.shiftLeft_add_eq_or_of_lt b.isLt, Nat.shiftLeft_eq]

/-- A word is the little-endian number of its four bytes (20_memory.md R52). -/
theorem readWord_toNat (s : State) (k : BitVec 4) :
    (readWord s k).toNat = Claims.blockWord s k.toNat := by
  calc (readWord s k).toNat
    _ = (readByte s (byteOfWord k 0)).toNat + 2 ^ 8 * (readByte s (byteOfWord k 1)).toNat +
          2 ^ 16 * (readByte s (byteOfWord k 2)).toNat + 2 ^ 24 * (readByte s (byteOfWord k 3)).toNat := by
      simp only [readWord, toNat_append_byte]
      omega
    _ = Claims.blockWord s k.toNat := by
      simp only [byteOfWord_eq_ofNat]
      rfl

/-- Bit `i` of word `k` is bit `i mod 8` of the byte at address `4k + i / 8` (20_memory.md R52). -/
theorem readWord_getLsbD (s : State) (k : BitVec 4) {i : Nat} (hi : i < 32) :
    (readWord s k).getLsbD i = (readByte s (BitVec.ofNat 6 (4 * k.toNat + i / 8))).getLsbD (i % 8) := by
  simp only [readWord, byteOfWord_eq_ofNat, BitVec.getLsbD_append]
  obtain h | h | h | h : i / 8 = 0 ∨ i / 8 = 1 ∨ i / 8 = 2 ∨ i / 8 = 3 := by omega
  · rw [h, if_pos (by omega)]
    congr 1; omega
  · rw [h, if_neg (by omega), if_pos (by omega)]
    congr 1; omega
  · rw [h, if_neg (by omega), if_neg (by omega), if_pos (by omega)]
    congr 1; omega
  · rw [h, if_neg (by omega), if_neg (by omega), if_neg (by omega)]
    congr 1; omega

/-- A byte is its slice of the word it lies in (20_memory.md R52). -/
theorem readByte_eq_extractLsb' (s : State) (addr : BitVec 6) :
    readByte s addr =
      (readWord s (BitVec.ofNat 4 (addr.toNat / 4))).extractLsb' (8 * (addr.toNat % 4)) 8 := by
  have hk : (BitVec.ofNat 4 (addr.toNat / 4)).toNat = addr.toNat / 4 := by bv_omega
  ext i hi
  have haddr : 4 * (addr.toNat / 4) + (8 * (addr.toNat % 4) + i) / 8 = addr.toNat := by omega
  have hbit : (8 * (addr.toNat % 4) + i) % 8 = i := by omega
  rw [BitVec.getElem_extractLsb', readWord_getLsbD s _ (by omega), hk, haddr, hbit, BitVec.ofNat_toNat,
    BitVec.setWidth_eq, BitVec.getLsbD_eq_getElem hi]

theorem not32_eq_not (x : Word) : not32 x = ~~~x := BitVec.xor_allOnes

/-- The mask of one byte's width. -/
theorem getLsbD_byteMask (n : Nat) : (0xFF#32).getLsbD n = decide (n < 8) := by
  have hmask : 0xFF#32 = (BitVec.allOnes 8).setWidth 32 := rfl
  rw [hmask, BitVec.getLsbD_setWidth, BitVec.getLsbD_allOnes, ← Bool.decide_and]
  exact decide_eq_decide.mpr (by omega)

/-- Bit `i` of the word whose slice from `8 * j` on is replaced by `v`, as 20_memory.md R53 masks and shifts it. -/
theorem getLsbD_replaceSlice (x : Word) (v : Byte) (j : Nat) {i : Nat} (hi : i < 32) :
    ((x &&& not32 (0xFF#32 <<< (8 * j))) ||| (v.setWidth 32 <<< (8 * j))).getLsbD i =
      if i / 8 = j then v.getLsbD (i % 8) else x.getLsbD i := by
  simp only [not32_eq_not, BitVec.getLsbD_or, BitVec.getLsbD_and, BitVec.getLsbD_not, BitVec.getLsbD_shiftLeft,
    BitVec.getLsbD_setWidth, getLsbD_byteMask]
  by_cases hslice : i / 8 = j
  · have hge : ¬ i < 8 * j := by omega
    have hbit : i - 8 * j = i % 8 := by omega
    have hlt : i % 8 < 32 := by omega
    simp [hslice, hi, hge, hbit, hlt, Nat.mod_lt]
  · by_cases hlow : i < 8 * j
    · simp [hslice, hi, hlow]
    · have hhigh : 8 ≤ i - 8 * j := by omega
      simp [hslice, hi, hlow, hhigh]

/-- Bit `i` of a word after a byte write is the byte's if the byte lies there (20_memory.md R53). -/
theorem readWord_writeByte_getLsbD {s : State} (addr : BitVec 6) (v : Byte) (h : Memory.wf s.buf = true)
    (k : BitVec 4) {i : Nat} (hi : i < 32) :
    (readWord (writeByte s addr v) k).getLsbD i =
      if 4 * k.toNat + i / 8 = addr.toNat then v.getLsbD (i % 8) else (readWord s k).getLsbD i := by
  have haddr : BitVec.ofNat 6 (4 * k.toNat + i / 8) = addr ↔ 4 * k.toNat + i / 8 = addr.toNat := by bv_omega
  rw [readWord_getLsbD _ k hi, readWord_getLsbD s k hi, readByte_writeByte addr _ v h]
  simp only [haddr]
  split <;> rfl

end Sys2Proof.Machine
end

section
/-! PROOFS of the family 20_memory.md, part 2: the statements settled. -/

namespace Sys2Proof

open Machine Claims

/-- Settles O45, from the word as a number and the byte as a slice. -/
theorem wordsAreLittleEndian : Obligations.WordsAreLittleEndian := by
  refine fun s => ⟨readWord_toNat s, fun addr => ?_⟩
  rw [readByte_eq_extractLsb', BitVec.extractLsb'_toNat, Nat.shiftRight_eq_div_pow]

/-- Settles O46, bit by bit: a bit's byte is the one written exactly if the word is and the slice is. -/
theorem byteWriteReplacesOneSlice : Obligations.ByteWriteReplacesOneSlice := by
  refine fun s addr v hwf => ⟨writeByte_wf addr v hwf, fun k => ?_⟩
  refine BitVec.eq_of_getLsbD_eq fun i hi => ?_
  rw [readWord_writeByte_getLsbD addr v hwf k hi]
  by_cases hk : k.toNat = addr.toNat / 4
  · have hslice : 4 * k.toNat + i / 8 = addr.toNat ↔ i / 8 = addr.toNat % 4 := by omega
    rw [if_pos hk, getLsbD_replaceSlice _ v _ hi]
    simp only [hslice]
  · rw [if_neg hk, if_neg (by omega)]

end Sys2Proof
end

section
/-! PROOFS of the family 30_encoding.md, part 1: the fields of a command word as numbers, and the decoder in terms
of them. -/

open Sys2Proof.Claims

namespace Sys2Proof

section
variable (w : BitVec 32)

theorem commandOpc_toNat : (commandOpc w).toNat = opc w := by
  rw [commandOpc, BitVec.extractLsb'_toNat, Nat.shiftRight_eq_div_pow, opc]
  omega

theorem commandRsv_toNat : (commandRsv w).toNat = rsv w := by
  rw [commandRsv, BitVec.extractLsb'_toNat, Nat.shiftRight_eq_div_pow, rsv]

theorem commandCp_toNat : (commandCp w).toNat = cpField w := by
  rw [commandCp, BitVec.extractLsb'_toNat, Nat.shiftRight_zero, cpField]

/-- The three fields make up the word (30_encoding.md R72). -/
theorem toNat_eq_fields : w.toNat = 2 ^ 24 * opc w + 2 ^ 21 * rsv w + cpField w := by
  rw [opc, rsv, cpField]
  omega

theorem rsv_lt : rsv w < 8 := Nat.mod_lt _ (by decide)

theorem cpField_lt : cpField w < 2 ^ 21 := Nat.mod_lt _ (by decide)

/-- The decoder's checks on the fields as numbers (30_encoding.md R75, R82). -/
theorem decodeCommand_eq : decodeCommand w =
    if opc w = 1 ∧ rsv w = 0 ∧ cpField w = 0 then .instr .init
    else if opc w = 2 ∧ rsv w = 0 then .instr (.putc (commandCp w))
    else if opc w = 3 ∧ rsv w = 0 ∧ cpField w = 0 then .instr .final
    else if opc w = 0 ∨ 4 ≤ opc w then .reject .reservedOpcode
    else if rsv w ≠ 0 then .reject .reservedField
    else .reject .operandNotZero := by
  have hopc : ∀ n < 256, (commandOpc w = BitVec.ofNat 8 n ↔ opc w = n) := fun n hn => by
    rw [← BitVec.toNat_inj, commandOpc_toNat, BitVec.toNat_ofNat, Nat.mod_eq_of_lt hn]
  have hrsv : commandRsv w = 0 ↔ rsv w = 0 := by rw [← BitVec.toNat_inj, commandRsv_toNat]; rfl
  have hcp : commandCp w = 0 ↔ cpField w = 0 := by rw [← BitVec.toNat_inj, commandCp_toNat]; rfl
  have hknown : commandOpcKnown w = false ↔ opc w = 0 ∨ 4 ≤ opc w := by
    simp only [commandOpcKnown, hopc 1 (by decide), hopc 2 (by decide), hopc 3 (by decide), Bool.or_eq_false_iff,
      decide_eq_false_iff_not]
    omega
  simp only [decodeCommand, hopc 1 (by decide), hopc 2 (by decide), hopc 3 (by decide), hrsv, hcp, hknown, ne_eq]

end

/-- The rows of the table of 30_encoding.md R75, as a condition on the fields for every answer the decoder can
give. -/
def WordClass (w : BitVec 32) : Decoded → Prop
  | .instr .init => opc w = 1 ∧ rsv w = 0 ∧ cpField w = 0
  | .instr (.putc cp) => opc w = 2 ∧ rsv w = 0 ∧ cp.toNat = cpField w
  | .instr .final => opc w = 3 ∧ rsv w = 0 ∧ cpField w = 0
  | .instr _ => False
  | .reject .reservedOpcode => opc w = 0 ∨ 4 ≤ opc w
  | .reject .reservedField => (1 ≤ opc w ∧ opc w ≤ 3) ∧ rsv w ≠ 0
  | .reject .operandNotZero => (opc w = 1 ∨ opc w = 3) ∧ rsv w = 0 ∧ cpField w ≠ 0

section
variable {w : BitVec 32}

theorem wordClass_decodeCommand : WordClass w (decodeCommand w) := by
  rw [decodeCommand_eq]
  split_ifs with hinit hputc hfinal hopc hrsv
  · exact hinit
  · exact ⟨hputc.1, hputc.2, commandCp_toNat w⟩
  · exact hfinal
  · exact hopc
  · exact ⟨by omega, hrsv⟩
  · exact ⟨by omega, by omega, by omega⟩

theorem decodeCommand_of_wordClass {d : Decoded} (h : WordClass w d) : decodeCommand w = d := by
  rw [decodeCommand_eq]
  cases d with
  | instr i =>
    cases i
    case init => exact if_pos h
    case putc cp =>
      obtain ⟨hopc, hrsv, hcp⟩ := h
      have hop : commandCp w = cp := BitVec.eq_of_toNat_eq ((commandCp_toNat w).trans hcp.symm)
      rw [if_neg (by omega), if_pos ⟨hopc, hrsv⟩, hop]
    case final =>
      obtain ⟨hopc, hrsv, hcp⟩ := h
      rw [if_neg (by omega), if_neg (by omega), if_pos ⟨hopc, hrsv, hcp⟩]
    all_goals exact h.elim
  | reject why =>
    cases why with
    | reservedOpcode =>
      have hopc : opc w = 0 ∨ 4 ≤ opc w := h
      rw [if_neg (by omega), if_neg (by omega), if_neg (by omega), if_pos hopc]
    | reservedField =>
      obtain ⟨hopc, hrsv⟩ := h
      rw [if_neg (by omega), if_neg (by omega), if_neg (by omega), if_neg (by omega), if_pos hrsv]
    | operandNotZero =>
      obtain ⟨hopc, hrsv, hcp⟩ := h
      rw [if_neg (by omega), if_neg (by omega), if_neg (by omega), if_neg (by omega), if_neg (by omega)]

/-- The decoder gives an answer exactly to the words of its class (30_encoding.md R75). -/
theorem decodeCommand_eq_iff {d : Decoded} : decodeCommand w = d ↔ WordClass w d :=
  ⟨fun h => h ▸ wordClass_decodeCommand, decodeCommand_of_wordClass⟩

end

/-- The word of a `PUTC` as a number: its row's `match` plus the operand (30_encoding.md R73). -/
theorem putcWord_toNat (cp : BitVec 21) : (Machine.putcWord cp.toNat).toNat = 0x02000000 + cp.toNat := by
  have hcp : cp.toNat < 2 ^ 21 := cp.isLt
  rw [Machine.putcWord, BitVec.toNat_add, BitVec.toNat_ofNat, BitVec.toNat_ofNat]
  omega

/-- The assembler and the encoder give the same word (30_encoding.md R73, R80). -/
theorem encode_putc (cp : BitVec 21) : encode (.putc cp) = .cmd32 (Machine.putcWord cp.toNat) := by
  rw [Machine.putcWord, BitVec.ofNat_toNat]
  rfl

theorem decodeCommand_putcWord (cp : BitVec 21) :
    decodeCommand (Machine.putcWord cp.toNat) = .instr (.putc cp) := by
  have hcp : cp.toNat < 2 ^ 21 := cp.isLt
  have hw := putcWord_toNat cp
  refine decodeCommand_of_wordClass ⟨?_, ?_, ?_⟩
  · rw [opc]; omega
  · rw [rsv]; omega
  · rw [cpField]; omega

/-- No bit of an encoding is dropped (30_encoding.md R73, R76 to R78). -/
theorem decode_encode (i : Instr) : decode (encode i) = .instr i := by
  cases i
  case putc cp => rw [encode_putc, decode, decodeCommand_putcWord]
  all_goals rfl

theorem encode_decodeStep (i : BitVec 6) : encode (decodeStep i) = .step6 i := by
  revert i
  decide

theorem encode_decodeSelect (fsel : BitVec 2) : encode (decodeSelect fsel) = .fsel2 fsel := by
  revert fsel
  decide

/-- The word of a command is its encoding: the class fixes all three fields (30_encoding.md R75). -/
theorem encode_of_decodeCommand {w : BitVec 32} {i : Instr} (h : decodeCommand w = .instr i) :
    encode i = .cmd32 w := by
  have hclass := decodeCommand_eq_iff.mp h
  have hw := toNat_eq_fields w
  obtain rfl | ⟨cp, rfl⟩ | rfl := Machine.decodeCommand_instr h
  · obtain ⟨hopc, hrsv, hcp⟩ := hclass
    exact congrArg Encoding.cmd32 (BitVec.eq_of_toNat_eq (by rw [hw, hopc, hrsv, hcp]; rfl))
  · obtain ⟨hopc, hrsv, hcp⟩ := hclass
    rw [encode_putc]
    exact congrArg Encoding.cmd32 (BitVec.eq_of_toNat_eq (by rw [putcWord_toNat, hw, hopc, hrsv, hcp]; rfl))
  · obtain ⟨hopc, hrsv, hcp⟩ := hclass
    exact congrArg Encoding.cmd32 (BitVec.eq_of_toNat_eq (by rw [hw, hopc, hrsv, hcp]; rfl))

theorem encode_of_decode {e : Encoding} {i : Instr} (h : decode e = .instr i) : encode i = e := by
  cases e with
  | cmd32 w => exact encode_of_decodeCommand h
  | step6 n => exact Decoded.instr.inj h ▸ encode_decodeStep n
  | fsel2 fsel => exact Decoded.instr.inj h ▸ encode_decodeSelect fsel
  | rot5 n => exact Decoded.instr.inj h ▸ rfl

/-- An encoding and its instruction determine each other (30_encoding.md R73, R75 to R78). -/
theorem decode_eq_instr_iff {e : Encoding} {i : Instr} : decode e = .instr i ↔ encode i = e :=
  ⟨encode_of_decode, fun h => h ▸ decode_encode i⟩

/-- What the mask of `PUTC` keeps of a word: all above the operand (30_encoding.md R73). -/
theorem and_putcMask (w : BitVec 32) :
    (w &&& 0xFFE00000#32).toNat = 2 ^ 24 * opc w + 2 ^ 21 * rsv w := by
  have hmask : 0xFFE00000#32 = BitVec.allOnes 32 <<< 21 := rfl
  rw [hmask, ← BitVec.shiftLeft_ushiftRight, BitVec.toNat_shiftLeft, BitVec.toNat_ushiftRight,
    Nat.shiftRight_eq_div_pow, Nat.shiftLeft_eq, opc, rsv]
  omega

end Sys2Proof
end

section
/-! PROOFS of the family 30_encoding.md, part 2: what a table row's bits run when they are placed, and the words of
an assembler line. -/

namespace Sys2Proof

theorem decodeTableWord_eq_some {nbits w : Nat} {i : Instr} (h : decodeTableWord nbits w = some i) :
    ∃ e, tableEncoding nbits w = some e ∧ decode e = .instr i := by
  unfold decodeTableWord at h
  split at h
  · cases h
  next e he =>
    split at h
    next j hj => exact ⟨e, he, hj.trans (congrArg Decoded.instr (Option.some.inj h))⟩
    next => cases h

end Sys2Proof

namespace Sys2Proof.Machine

/-- Placing a row's bits places the encoding they stand for, which decodes to the row's instruction. -/
theorem withFetchWord_of_decodeTableWord (s : State) {nbits w : Nat} {i : Instr}
    (h : decodeTableWord nbits w = some i) :
    ∃ e, tableEncoding nbits w = some e ∧ decode e = .instr i ∧ s.withFetchWord nbits w = placeEncoding e s := by
  obtain ⟨e, he, hd⟩ := decodeTableWord_eq_some h
  exact ⟨e, he, hd, by simp only [State.withFetchWord, placeTableWord, he]⟩

/-- A step with a placed command word outside `FAULT` runs the command (45_commands.md R265). -/
theorem step_place_command {s : State} {w : BitVec 32} {i : Instr} (hp : s.phase ≠ .fault)
    (hd : decode (.cmd32 w) = .instr i) : step (placeEncoding (.cmd32 w) s) = exec i s :=
  show executeWord w s = exec i s from executeWord_instr hp hd

/-- The word of a command as an event (30_encoding.md R73, R80). -/
theorem commandEvent_putc (cp : BitVec 21) : commandEvent (.putc cp) = some (.command (putcWord cp.toNat)) := by
  rw [commandEvent, encode_putc]

theorem assembleLine_putc {o : AsmOperand} (h : o.wellFormed = true) :
    assembleLine (.putc o) = some [putcWord o.value] := by
  simp only [assembleLine, AsmLine.wellFormed, h, Bool.true_eq_false, if_false]

/-- An operand above the field's greatest value is rejected (30_encoding.md R80). -/
theorem assembleLine_putc_none {o : AsmOperand} (h : 0x1FFFFF < o.value) : assembleLine (.putc o) = none := by
  have hbad : o.wellFormed = false := by
    rw [AsmOperand.wellFormed, decide_eq_false (Nat.not_le.mpr h), Bool.and_false]
  simp only [assembleLine, AsmLine.wellFormed, hbad, if_true]

/-- The code points a text of 21-bit operands has are ones the assembler accepts (30_encoding.md R80, R81). -/
theorem all_operands_fit (cps : List (BitVec 21)) : (cps.map BitVec.toNat).all (· ≤ 0x1FFFFF) = true := by
  rw [List.all_map, List.all_eq_true]
  intro cp _
  exact decide_eq_true (Nat.le_of_lt_succ cp.isLt)

theorem assembleLine_puts (cps : List (BitVec 21)) :
    assembleLine (.puts (cps.map BitVec.toNat)) = some (cps.map fun cp => putcWord cp.toNat) := by
  simp only [assembleLine, AsmLine.wellFormed, all_operands_fit, Bool.true_eq_false, if_false, List.map_map,
    Function.comp_def]

theorem assembleLine_hash (cps : List (BitVec 21)) :
    assembleLine (.hash (cps.map BitVec.toNat)) =
      some (0x01000000#32 :: (cps.map fun cp => putcWord cp.toNat) ++ [0x03000000#32]) := by
  simp only [assembleLine, AsmLine.wellFormed, all_operands_fit, Bool.true_eq_false, if_false, List.map_map,
    Function.comp_def]

/-- The words of a text decode to its `PUTC`s, in order (30_encoding.md R81). -/
theorem decode_putcWords (cps : List (BitVec 21)) :
    (cps.map fun cp => putcWord cp.toNat).map (fun w => decode (.cmd32 w)) =
      (cps.map Instr.putc).map Decoded.instr := by
  rw [List.map_map, List.map_map]
  exact List.map_congr_left fun cp _ => decodeCommand_putcWord cp

/-- The commands of a text are sent as its words, in order (30_encoding.md R81). -/
theorem commandEvents_putc (cps : List (BitVec 21)) :
    (cps.map Instr.putc).filterMap commandEvent = (cps.map fun cp => putcWord cp.toNat).map Event.command := by
  rw [List.filterMap_map, List.map_map, ← List.filterMap_eq_map]
  exact congrArg (List.filterMap · cps) (funext commandEvent_putc)

end Sys2Proof.Machine
end

section
/-! PROOFS of the family 30_encoding.md, part 3: the statements settled. -/

namespace Sys2Proof

open Machine Claims

/-- Settles O4, instruction by instruction; the `PUTC` row is the one with an operand inside a larger word. -/
theorem encodingDecodesBack : Obligations.EncodingDecodesBack := decode_encode

/-- Settles O5, format by format. -/
theorem decodedWordIsItsEncoding : Obligations.DecodedWordIsItsEncoding := fun _ _ => encode_of_decode

/-- Settles O2: each clause is the decoder's answer against its class; the last is what a step does with a word. -/
theorem everyWordHasItsClass : Obligations.EveryWordHasItsClass := by
  refine fun w => ⟨decodeCommand_eq_iff, fun _ => decodeCommand_eq_iff, decodeCommand_eq_iff,
    decodeCommand_eq_iff, decodeCommand_eq_iff, decodeCommand_eq_iff, fun s rest hpend hp => ⟨?_, ?_⟩⟩
  · exact fun i hd => (step_cons hpend).trans (executeWord_instr hp hd)
  · exact fun why hd => (step_cons hpend).trans (executeWord_reject hp hd)

/-- Settles O3: a full mask compares with the command's one encoding, the mask of `PUTC` with `OPC` and `RSV`. -/
theorem maskAndMatchSelectTheCommand : Obligations.MaskAndMatchSelectTheCommand := by
  intro w
  have hfull : w &&& 0xFFFFFFFF#32 = w := BitVec.and_allOnes
  have hmask := and_putcMask w
  have hone : ∀ (i : Instr) (m : BitVec 32), encode i = .cmd32 m →
      (decode (.cmd32 w) = .instr i ↔ w &&& 0xFFFFFFFF#32 = m) := fun i m hi => by
    rw [decode_eq_instr_iff, hi, hfull, Encoding.cmd32.injEq, eq_comm]
  refine ⟨hone _ _ rfl, ⟨?_, fun h => ?_⟩, hone _ _ rfl, fun cp h => ?_, _, rfl⟩
  · rintro ⟨cp, h⟩
    obtain ⟨hopc, hrsv, -⟩ := decodeCommand_eq_iff.mp h
    exact BitVec.eq_of_toNat_eq (by rw [hmask, hopc, hrsv]; rfl)
  · have hrsv := rsv_lt w
    have hfields : 2 ^ 24 * opc w + 2 ^ 21 * rsv w = 0x02000000 := hmask.symm.trans (congrArg BitVec.toNat h)
    exact ⟨commandCp w, decodeCommand_of_wordClass ⟨by omega, by omega, commandCp_toNat w⟩⟩
  · obtain ⟨hopc, -, hcp⟩ := decodeCommand_eq_iff.mp h
    exact ⟨hopc, hcp⟩

/-- Settles O56, line by line. -/
theorem assembledWordsDecodeToTheirLines : Obligations.AssembledWordsDecodeToTheirLines := by
  refine ⟨⟨rfl, rfl⟩, ⟨rfl, rfl⟩, fun o h => ?_, fun o h => ?_, fun cps => ?_, rfl, fun cps => ?_⟩
  · have hle : o.value ≤ 0x1FFFFF := of_decide_eq_true ((Bool.and_eq_true _ _).mp h).2
    have hvalue : (BitVec.ofNat 21 o.value).toNat = o.value :=
      (BitVec.toNat_ofNat ..).trans (Nat.mod_eq_of_lt (by omega))
    have hdecode := decodeCommand_putcWord (BitVec.ofNat 21 o.value)
    rw [hvalue] at hdecode
    exact ⟨_, assembleLine_putc h, hdecode, hvalue⟩
  · exact assembleLine_putc_none h
  · exact ⟨_, assembleLine_puts cps, (decode_putcWords cps).trans List.map_map⟩
  · refine ⟨_, assembleLine_hash cps, ?_, ?_⟩
    · rw [List.map_append, List.map_cons, decode_putcWords, hashCommands, List.map_append]
      rfl
    · have hinit : commandEvent .init = some (.command 0x01000000#32) := rfl
      rw [hashCommands, List.filterMap_append, List.filterMap_cons_some hinit, commandEvents_putc, List.map_append,
        List.map_cons]
      rfl

/-- Settles O8: the number of bits fixes the format, and the step decodes the placed bits again in that format. -/
theorem placedInstructionRunsNext : Obligations.PlacedInstructionRunsNext := by
  refine fun s i w => ⟨fun h hp => ?_, fun h => ?_, fun h => ?_, fun h => ?_⟩
  all_goals
    obtain ⟨e, he, hd, hplace⟩ := withFetchWord_of_decodeTableWord s h
    obtain rfl := Option.some.inj (Option.ite_none_right_eq_some.mp he).2
    rw [hplace]
  case refine_1 => exact step_place_command hp hd
  all_goals
    obtain rfl := Decoded.instr.inj hd
    rfl

end Sys2Proof
end

section
/-! PROOFS of the family 40_encoder.md, part 1: the packer in arithmetic. A marker is a multiple of the power of two
its digit stays below, so joining the two is an addition; `Packed` says what the bytes of a code point then are. -/

open Sys2Proof.Claims

namespace Sys2Proof.Machine

section
variable (cp : BitVec 21)

theorem digitByte_eq (i k : Nat) :
    (cp.extractLsb' i k).setWidth 8 = BitVec.ofNat 8 (cp.toNat / 2 ^ i % 2 ^ k) := by
  rw [← BitVec.ofNat_toNat, BitVec.extractLsb'_toNat, Nat.shiftRight_eq_div_pow]

theorem marker_or_digit (c i k : Nat) :
    BitVec.ofNat 8 (2 ^ k * c) ||| (cp.extractLsb' i k).setWidth 8 =
      BitVec.ofNat 8 (2 ^ k * c + cp.toNat / 2 ^ i % 2 ^ k) := by
  have hlt : cp.toNat / 2 ^ i % 2 ^ k < 2 ^ k := Nat.mod_lt _ (Nat.two_pow_pos k)
  rw [digitByte_eq, Nat.two_pow_add_eq_or_of_lt hlt, BitVec.ofNat_or]

/-- The one byte of a code point up to `0x7F` (40_encoder.md R101). -/
theorem asciiByte_eq (h : cp.toNat ≤ 0x7F) : (cp.extractLsb' 0 7).setWidth 8 = BitVec.ofNat 8 cp.toNat := by
  rw [digitByte_eq, pow_zero, Nat.div_one, Nat.mod_eq_of_lt (by omega)]

/-- A lead byte is its marker plus all of the code point above bit `i`, if that fits the byte's digit. -/
theorem leadByte_eq (c i k : Nat) (h : cp.toNat / 2 ^ i < 2 ^ k) :
    BitVec.ofNat 8 (2 ^ k * c) ||| (cp.extractLsb' i k).setWidth 8 =
      BitVec.ofNat 8 (2 ^ k * c + cp.toNat / 2 ^ i) := by
  rw [marker_or_digit, Nat.mod_eq_of_lt h]

/-- A continuation byte is `0x80` plus its six-bit digit (40_encoder.md R101). -/
theorem continuationByte_eq (i : Nat) :
    0x80#8 ||| (cp.extractLsb' i 6).setWidth 8 = BitVec.ofNat 8 (0x80 + cp.toNat / 2 ^ i % 64) :=
  marker_or_digit cp 2 i 6

end

end Sys2Proof.Machine

namespace Sys2Proof

open Machine

/-- Settles O51: the packer's comparisons are those of the numbers, and each of its bytes is a marker plus a
digit. -/
theorem packerFollowsTheRanges : Obligations.PackerFollowsTheRanges := by
  intro cp n tail
  have hle : ∀ m < 2 ^ 21, (cp ≤ BitVec.ofNat 21 m ↔ n ≤ m) := fun m hm => by
    rw [BitVec.le_def, BitVec.toNat_ofNat, Nat.mod_eq_of_lt hm]
  have hge : 0xD800#21 ≤ cp ↔ 0xD800 ≤ n := BitVec.le_def
  have hlast : 0x80#8 ||| (cp.extractLsb' 0 6).setWidth 8 = tail n := by
    rw [continuationByte_eq, pow_zero, Nat.div_one]
  simp only [utf8Bytes, hle 0x7F (by decide), hle 0x7FF (by decide), hle 0xDFFF (by decide), hle 0xFFFF (by decide),
    hle 0x10FFFF (by decide), hge, hlast, continuationByte_eq]
  split_ifs with h1 h2 h3 hsurrogate h4 hsurrogate
  · rw [asciiByte_eq cp h1]
  · exact congrArg (fun b => some [b, _]) (leadByte_eq cp 6 6 5 (by omega))
  · rfl
  · exact congrArg (fun b => some [b, _, _]) (leadByte_eq cp 14 12 4 (by omega))
  · exact h3 (hsurrogate.2.trans (by decide))
  · exact congrArg (fun b => some [b, _, _, _]) (leadByte_eq cp 30 18 3 (by omega))
  · rfl
  · rfl

end Sys2Proof

namespace Sys2Proof.Machine

/-- The bytes of a code point as numbers, one case per class of 40_encoder.md R101. -/
inductive Packed (n : Nat) : List Byte → Prop
  | one {a : Byte} (hn : n ≤ 0x7F) (ha : a.toNat = n) : Packed n [a]
  | two {a b : Byte} (hn : 0x7F < n ∧ n ≤ 0x7FF) (ha : a.toNat = 0xC0 + n / 64) (hb : b.toNat = 0x80 + n % 64) :
      Packed n [a, b]
  | three {a b c : Byte} (hn : 0x7FF < n ∧ n ≤ 0xFFFF) (ha : a.toNat = 0xE0 + n / 4096)
      (hb : b.toNat = 0x80 + n / 64 % 64) (hc : c.toNat = 0x80 + n % 64) : Packed n [a, b, c]
  | four {a b c d : Byte} (hn : 0xFFFF < n ∧ n ≤ 0x10FFFF) (ha : a.toNat = 0xF0 + n / 262144)
      (hb : b.toNat = 0x80 + n / 4096 % 64) (hc : c.toNat = 0x80 + n / 64 % 64) (hd : d.toNat = 0x80 + n % 64) :
      Packed n [a, b, c, d]

theorem byte_toNat {m : Nat} (h : m < 256) : (BitVec.ofNat 8 m).toNat = m := by
  rw [BitVec.toNat_ofNat, Nat.mod_eq_of_lt h]

section
variable {cp : BitVec 21} {bs : List Byte}

theorem utf8Bytes_packed (h : utf8Bytes cp = some bs) : Packed cp.toNat bs := by
  have htail : ∀ m, (BitVec.ofNat 8 (0x80 + m % 64)).toNat = 0x80 + m % 64 := fun m => byte_toNat (by omega)
  rw [packerFollowsTheRanges cp] at h
  split_ifs at h with h1 h2 h3 h4 h5
  all_goals obtain rfl := Option.some.inj h
  · exact .one h1 (byte_toNat (by omega))
  · exact .two (by omega) (byte_toNat (by omega)) (htail _)
  · exact .three (by omega) (byte_toNat (by omega)) (htail _) (htail _)
  · exact .four (by omega) (byte_toNat (by omega)) (htail _) (htail _) (htail _)

/-- The operands without bytes are those that are no scalar values (40_encoder.md R104). -/
theorem utf8Bytes_isSome_iff : (utf8Bytes cp).isSome ↔ IsScalar cp := by
  rw [packerFollowsTheRanges cp, IsScalar]
  split_ifs <;> simp only [Option.isSome_some, Option.isSome_none, Bool.false_eq_true, true_iff, false_iff] <;> omega

end

section
variable {n m : Nat} {bs : List Byte}

theorem Packed.continuation (h : Packed n bs) : ∀ b ∈ bs.drop 1, 0x80 ≤ b.toNat ∧ b.toNat ≤ 0xBF := by
  cases h
  case one => exact List.forall_mem_nil _
  all_goals
    simp only [List.drop_succ_cons, List.drop_zero, List.forall_mem_cons, List.not_mem_nil, false_implies,
      implies_true, and_true]
    omega

/-- The lead byte is legal by the class's range, the others as continuation bytes (40_encoder.md R103). -/
theorem Packed.legal (h : Packed n bs) : ∀ b ∈ bs, b.toNat < 0xC0 ∨ (0xC2 ≤ b.toNat ∧ b.toNat ≤ 0xF4) := by
  have htail : ∀ b ∈ bs.drop 1, b.toNat < 0xC0 := fun b hb => Nat.lt_succ_of_le (h.continuation b hb).2
  cases h <;> exact List.forall_mem_cons.mpr ⟨by omega, fun b hb => .inl (htail b hb)⟩

/-- The lead bytes of the four classes do not meet, and within a class the digits make up the code point. -/
theorem Packed.injective (h : Packed n bs) (h' : Packed m bs) : n = m := by
  cases h <;> cases h' <;> omega

end

end Sys2Proof.Machine
end

section
/-! PROOFS of the family 40_encoder.md, part 2: the bytes of a text. -/

open Sys2Proof.Claims

namespace Sys2Proof.Machine

section
variable {cp : BitVec 21} {cps : List (BitVec 21)} {msg : List Byte}

theorem textBytes_cons_eq_some : textBytes (cp :: cps) = some msg ↔
    ∃ bs rest, utf8Bytes cp = some bs ∧ textBytes cps = some rest ∧ bs ++ rest = msg := by
  rw [textBytes]
  cases utf8Bytes cp <;> cases textBytes cps <;> simp

theorem textBytes_isSome_iff : (textBytes cps).isSome ↔ ∀ cp ∈ cps, IsScalar cp := by
  induction cps with
  | nil => simp [textBytes]
  | cons cp cps ih =>
    rw [List.forall_mem_cons, ← ih, ← utf8Bytes_isSome_iff, textBytes]
    cases utf8Bytes cp <;> cases textBytes cps <;> simp

/-- The message is the bytes of the code points, one after the other (40_encoder.md R100). -/
theorem textBytes_parts (h : textBytes cps = some msg) :
    ∃ parts : List (List Byte), cps.map utf8Bytes = parts.map some ∧ msg = parts.flatten := by
  induction cps generalizing msg with
  | nil => exact ⟨[], rfl, (Option.some.inj h).symm⟩
  | cons cp cps ih =>
    obtain ⟨bs, rest, hbs, hrest, rfl⟩ := textBytes_cons_eq_some.mp h
    obtain ⟨parts, hparts, rfl⟩ := ih hrest
    exact ⟨bs :: parts, by rw [List.map_cons, List.map_cons, hbs, hparts], List.flatten_cons.symm⟩

end

end Sys2Proof.Machine
end

section
/-! PROOFS of the family 40_encoder.md, part 3: the statements settled; O51 stands in part 1, for the others to
use. -/

namespace Sys2Proof

open Machine Claims

/-- Settles O52, from the shape of the packed bytes. -/
theorem packedBytesAreLegalAndDistinct : Obligations.PackedBytesAreLegalAndDistinct := by
  refine ⟨fun cp bs h => ?_, fun cp cp' bs h h' => ?_⟩
  · obtain ⟨hpos, hfour⟩ := utf8Bytes_length h
    have hpacked := utf8Bytes_packed h
    exact ⟨hpos, hfour, hpacked.legal, hpacked.continuation⟩
  · exact BitVec.eq_of_toNat_eq ((utf8Bytes_packed h).injective (utf8Bytes_packed h'))

/-- Settles O16: a code point has bytes exactly if it is a scalar value; then by induction on the text. -/
theorem scalarTextsHaveBytes : Obligations.ScalarTextsHaveBytes :=
  ⟨fun _ => textBytes_isSome_iff.symm.trans Option.isSome_iff_exists, fun _ _ => textBytes_parts⟩

/-- Settles O53: the latch is written with one to four bytes, which its count holds. -/
theorem latchHoldsThePackedBytes : Obligations.LatchHoldsThePackedBytes := by
  refine fun s cp => ⟨fun h => by rw [encodePoint, h], fun bs h => ?_⟩
  have hlen := (utf8Bytes_length h).2
  refine ⟨latchBytes bs s, by rw [encodePoint, h], rfl, ?_, latchedBytes_latchBytes s hlen⟩
  rw [latchBytes_encn, BitVec.toNat_ofNat, Nat.mod_eq_of_lt (by omega)]

end Sys2Proof
end

section
/-! PROOFS of the family 41_padder.md, part 1: the buffer after absorbed bytes, the padding as a list of absorbed
bytes, and the length field as a number and as two words. -/

open Sys2Proof.Claims

namespace Sys2Proof.Machine

section
variable {s : State}

theorem fill_toNat_eq_63_iff : s.fill.toNat = 63 ↔ s.fill = 63 := BitVec.toNat_inj (y := 63)

/-- The words of a buffer given byte by byte (20_memory.md R52). -/
theorem readWord_eq_blockOf {byte : Nat → Byte} (h : ∀ addr, readByte s addr = byte addr.toNat) :
    readWord s = blockOf byte := by
  funext k
  simp only [readWord, h, byteOfWord_toNat]
  rfl

/-- `ABSORB` writes the byte at `FILL` and no other (41_padder.md R121). -/
theorem readByte_absorb (v : Byte) (addr : BitVec 6) (h : Memory.wf s.buf = true) :
    readByte (absorb v s) addr = if addr = s.fill then v else readByte s addr := by
  rw [readByte_congr (absorb_buf v s), readByte_writeByte s.fill addr v h]

/-- At most a block of bytes stands in the buffer from `FILL` on, around its end; the distance of an address from
`FILL` is taken modulo 64, as `FILL` itself counts (41_padder.md R121). -/
theorem readByte_absorbAll {vs : List Byte} (addr : BitVec 6) (h : Memory.wf s.buf = true)
    (hlen : vs.length ≤ 64) :
    readByte (absorbAll vs s) addr =
      if (addr - s.fill).toNat < vs.length then vs.getD (addr - s.fill).toNat 0 else readByte s addr := by
  induction vs generalizing s with
  | nil => rfl
  | cons v vs ih =>
    rw [List.length_cons] at hlen ⊢
    rw [absorbAll, ih (absorb_wf v s h) (by omega), absorb_fill, readByte_absorb v addr h]
    by_cases hf : addr = s.fill
    · have hfirst : (addr - s.fill).toNat = 0 := by bv_omega
      have hpast : ¬ (addr - (s.fill + 1)).toNat < vs.length := by bv_omega
      rw [if_neg hpast, if_pos hf, hfirst, if_pos (Nat.succ_pos _), List.getD_cons_zero]
    · have hnext : (addr - s.fill).toNat = (addr - (s.fill + 1)).toNat + 1 := by bv_omega
      simp only [if_neg hf, hnext, Nat.add_lt_add_iff_right, List.getD_cons_succ]

/-- The zeros of the padding, counted: as many as are missing up to byte 56 (41_padder.md R122). -/
theorem padZeros_eq_absorbAll {n : Nat} (h : (56 - s.fill).toNat ≤ n) :
    padZeros n s = absorbAll (List.replicate (56 - s.fill).toNat 0x00#8) s := by
  induction n generalizing s with
  | zero => rw [Nat.le_zero.mp h]; rfl
  | succ n ih =>
    rw [padZeros]
    split
    · next hf => rw [hf]; rfl
    · next hf =>
      have hnext : (56 - s.fill).toNat = (56 - (absorb 0x00#8 s).fill).toNat + 1 := by
        rw [absorb_fill]
        bv_omega
      rw [ih (by omega), hnext, List.replicate_succ, absorbAll]

end

section
variable (len : Nat)

theorem zeroCount_lt : zeroCount len < 64 := by
  rw [zeroCount]
  omega

/-- With the byte `0x80`, the zeros and the length the last block is full (41_padder.md R123). -/
theorem padded_length_mod : (len + 1 + zeroCount len + 8) % 64 = 0 := by
  rw [zeroCount]
  omega

end

section
variable (s : State)

/-- After the byte `0x80` the zeros missing up to byte 56 are those of R123. -/
theorem zeroCount_fill : (56 - (s.fill + 1)).toNat = zeroCount s.fill.toNat := by
  rw [zeroCount]
  bv_omega

/-- `PAD` as one list of absorbed bytes (41_padder.md R122, R123). -/
theorem pad_eq_absorbAll : pad s =
    absorbAll (0x80#8 :: List.replicate (zeroCount s.fill.toNat) 0x00#8 ++ lengthBytes (lengthField s)) s := by
  rw [pad, padZeros_eq_absorbAll (by omega), absorb_fill, zeroCount_fill, absorbAll_append, absorbAll]

/-- Eight times the counter fits the 64 bits of the length field (41_padder.md R125). -/
theorem lengthField_toNat : (lengthField s).toNat = 8 * s.nbytes.toNat := by
  have hlt : s.nbytes.toNat < 2 ^ 61 := s.nbytes.isLt
  rw [lengthField, BitVec.toNat_shiftLeft, BitVec.toNat_setWidth, Nat.shiftLeft_eq]
  omega

end

/-- Byte `j` of the length field (41_padder.md R125). -/
theorem lengthBytes_getD (len64 : BitVec 64) {j : Nat} (hj : j < 8) :
    (lengthBytes len64).getD j 0 = len64.extractLsb' (8 * j) 8 := by
  interval_cases j <;> rfl

/-- Four neighbouring bytes of a bit vector make up its 32-bit slice. -/
theorem append_bytes_eq_extractLsb' {n : Nat} (x : BitVec n) (i : Nat) :
    x.extractLsb' (i + 24) 8 ++ x.extractLsb' (i + 16) 8 ++ x.extractLsb' (i + 8) 8 ++ x.extractLsb' i 8 =
      x.extractLsb' i 32 := by
  rw [BitVec.extractLsb'_append_extractLsb'_eq_extractLsb' (by omega),
    BitVec.extractLsb'_append_extractLsb'_eq_extractLsb' (by omega),
    BitVec.extractLsb'_append_extractLsb'_eq_extractLsb' (by omega)]

/-- A word whose bytes are those of a bit vector from bit `i` on (20_memory.md R52). -/
theorem readWord_eq_extractLsb' {s : State} {k : BitVec 4} {n : Nat} {x : BitVec n} {i : Nat}
    (h : ∀ j : BitVec 2, readByte s (byteOfWord k j) = x.extractLsb' (i + 8 * j.toNat) 8) :
    readWord s k = x.extractLsb' i 32 := by
  simp only [readWord, h]
  exact append_bytes_eq_extractLsb' x i

section
variable {s : State} (h : Memory.wf s.buf = true)
include h

/-- The length takes the last eight bytes of the last block (41_padder.md R122). -/
theorem readByte_pad_length {addr : BitVec 6} (ha : 56 ≤ addr.toNat) :
    readByte (pad s) addr = (lengthField s).extractLsb' (8 * (addr.toNat - 56)) 8 := by
  have hlen : (lengthBytes (lengthField s)).length = 8 := rfl
  have hfill : (padZeros 64 (absorb 0x80#8 s)).fill = 56 := padZeros_fill (by omega)
  have hj : (addr - 56).toNat = addr.toNat - 56 := by bv_omega
  have hlt : addr.toNat - 56 < 8 := by omega
  rw [pad, readByte_absorbAll _ (padZeros_wf _ _ (absorb_wf _ _ h)) (by omega), hfill, hj, hlen, if_pos hlt,
    lengthBytes_getD _ hlt]

/-- `X[14]` and `X[15]` of the last block are the halves of the length field (41_padder.md R125). -/
theorem readWord_pad_length {k : BitVec 4} (hk : 14 ≤ k.toNat) :
    readWord (pad s) k = (lengthField s).extractLsb' (32 * (k.toNat - 14)) 32 := by
  refine readWord_eq_extractLsb' fun j => ?_
  have hi : 32 * (k.toNat - 14) + 8 * j.toNat = 8 * (4 * k.toNat + j.toNat - 56) := by omega
  rw [readByte_pad_length h (by rw [byteOfWord_toNat]; omega), byteOfWord_toNat, hi]

end

end Sys2Proof.Machine
end

section
/-! PROOFS of the family 41_padder.md, part 2: the statements settled. -/

namespace Sys2Proof

open Machine Claims

/-- Settles O47: the block compressed at `FILL = 63` is the buffer with the byte written there. -/
theorem absorbPlacesOneByte : Obligations.AbsorbPlacesOneByte := by
  refine fun s v hwf => ⟨fun addr => readByte_absorb v addr hwf, ?_, ?_, absorb_nbytes v s, absorb_phase v s,
    absorb_cause v s, absorb_hex v s⟩
  · rw [absorb_fill]
    split <;> bv_omega
  · split
    · next hf =>
      rw [absorb_chain_full v (fill_toNat_eq_63_iff.mp hf)]
      refine congrArg _ (readWord_eq_blockOf fun addr => ?_)
      have haddr : addr = s.fill ↔ addr.toNat = 63 := by rw [← hf, BitVec.toNat_inj]
      simp only [readByte_writeByte s.fill addr v hwf, haddr, BitVec.ofNat_toNat, BitVec.setWidth_eq]
    · next hf => exact absorb_chain_partial v (mt fill_toNat_eq_63_iff.mpr hf)

/-- Settles O48: the zeros are those missing up to byte 56 after the byte `0x80`. -/
theorem padAppendsZerosAndLength : Obligations.PadAppendsZerosAndLength :=
  fun s => ⟨pad_eq_absorbAll s, pad_fill s, padded_length_mod s.fill.toNat⟩

/-- Settles O49: eight times the counter loses no bit, and eight times what wrapped is a multiple of 2^64. -/
theorem lengthFieldIsEightTimesTheLength : Obligations.LengthFieldIsEightTimesTheLength := by
  refine ⟨fun s len hcount => ?_, fun s hwf => ⟨?_, ?_⟩⟩
  · rw [lengthField_toNat, hcount]
    omega
  · rw [readWord_pad_length hwf (by decide), BitVec.extractLsb'_toNat, Nat.shiftRight_eq_div_pow]
    exact congrArg (· % 2 ^ 32) (Nat.div_one _)
  · have hlt : (lengthField s).toNat < 2 ^ 64 := (lengthField s).isLt
    rw [readWord_pad_length hwf (by decide), BitVec.extractLsb'_toNat, Nat.shiftRight_eq_div_pow]
    exact Nat.mod_eq_of_lt (Nat.div_lt_of_lt_mul hlt)

/-- Settles O50: the padded length is the first multiple of 64 above `L + 8`. -/
theorem paddedMessageIsWholeBlocks : Obligations.PaddedMessageIsWholeBlocks := by
  intro msg
  have hlength : (paddedBytes msg).length = msg.length + 1 + zeroCount msg.length + 8 := by
    have hlen : (lengthBytes (BitVec.ofNat 64 (8 * msg.length))).length = 8 := rfl
    rw [paddedBytes, List.length_append, List.length_append, List.length_append, List.length_singleton,
      List.length_replicate, hlen]
  have hmod := padded_length_mod msg.length
  have hlt := zeroCount_lt msg.length
  rw [blockCount, hlength]
  exact ⟨by omega, by omega, rfl, hlt⟩

end Sys2Proof
end

section
/-! PROOFS of the family 42_alu.md, part 1: the adder and the complement as numbers, the evaluator and the rotator
bit by bit. -/

open Sys2Proof.Claims

namespace Sys2Proof.Machine

section
variable (x y : Word)

theorem add32_toNat : (add32 x y).toNat = (x.toNat + y.toNat) % 2 ^ 32 := BitVec.toNat_add x y

theorem add32_comm : add32 x y = add32 y x := BitVec.add_comm x y

theorem add32_assoc (z : Word) : add32 (add32 x y) z = add32 x (add32 y z) := BitVec.add_assoc x y z

theorem not32_toNat : (not32 x).toNat = 0xFFFFFFFF - x.toNat := by
  rw [not32_eq_not, BitVec.toNat_not]

end

section
variable (b c d : Word) {j : Nat}

theorem funH_getLsbD : (funH b c d).getLsbD j = bitH (b.getLsbD j) (c.getLsbD j) (d.getLsbD j) := by
  rw [funH, bitH, BitVec.getLsbD_xor, BitVec.getLsbD_xor]

variable (hj : j < 32)
include hj

/-- The complement has no bits above the word, so this and what uses it need the bit position to lie in it. -/
theorem not32_getLsbD : (not32 d).getLsbD j = !d.getLsbD j := by
  rw [not32_eq_not, BitVec.getLsbD_not, decide_eq_true hj, Bool.true_and]

theorem funF_getLsbD : (funF b c d).getLsbD j = bitF (b.getLsbD j) (c.getLsbD j) (d.getLsbD j) := by
  rw [funF, bitF, BitVec.getLsbD_or, BitVec.getLsbD_and, BitVec.getLsbD_and, not32_getLsbD b hj]
  cases b.getLsbD j <;> simp

theorem funG_getLsbD : (funG b c d).getLsbD j = bitG (b.getLsbD j) (c.getLsbD j) (d.getLsbD j) := by
  rw [funG, bitG, BitVec.getLsbD_or, BitVec.getLsbD_and, BitVec.getLsbD_and, not32_getLsbD d hj]
  cases d.getLsbD j <;> simp

theorem funI_getLsbD : (funI b c d).getLsbD j = bitI (b.getLsbD j) (c.getLsbD j) (d.getLsbD j) := by
  rw [funI, bitI, BitVec.getLsbD_xor, BitVec.getLsbD_or, not32_getLsbD d hj]

end

section
variable (x : Word) (s : BitVec 5)

@[simp] theorem rotl32_zero : rotl32 x 0 = x := if_pos rfl

theorem rotl32_eq_rotateLeft : rotl32 x s = x.rotateLeft s.toNat := by
  have hs : s.toNat % 32 = s.toNat := Nat.mod_eq_of_lt s.isLt
  rw [BitVec.rotateLeft_def, hs, rotl32]
  split
  · next h => simp [h, BitVec.ushiftRight_eq_zero]
  · rfl

/-- Bit `j` of the result is bit `(j - s) mod 32` of the operand (42_alu.md R143). -/
theorem rotl32_getLsbD {j : Nat} (hj : j < 32) :
    (rotl32 x s).getLsbD j = x.getLsbD ((j + 32 - s.toNat) % 32) := by
  rw [rotl32_eq_rotateLeft, BitVec.getLsbD_rotateLeft_of_le s.isLt]
  by_cases hlow : j < s.toNat
  · have hbit : 32 - s.toNat + j = (j + 32 - s.toNat) % 32 := by omega
    simp [hlow, hbit]
  · have hbit : j - s.toNat = (j + 32 - s.toNat) % 32 := by omega
    simp [hlow, hj, hbit]

/-- The bits shifted out at the top are added back at the bottom: no carry arises between the two parts
(42_alu.md R143). -/
theorem rotl32_toNat (hs : s ≠ 0) :
    (rotl32 x s).toNat = (x.toNat * 2 ^ s.toNat) % 2 ^ 32 + x.toNat / 2 ^ (32 - s.toNat) := by
  have hsplit : 2 ^ 32 = 2 ^ (32 - s.toNat) * 2 ^ s.toNat := by rw [← Nat.pow_add, Nat.sub_add_cancel (by omega)]
  have hlow : x.toNat / 2 ^ (32 - s.toNat) < 2 ^ s.toNat := Nat.div_lt_of_lt_mul (hsplit ▸ x.isLt)
  rw [rotl32, if_neg hs, BitVec.toNat_or, BitVec.toNat_shiftLeft, BitVec.toNat_ushiftRight, Nat.shiftLeft_eq,
    Nat.shiftRight_eq_div_pow, hsplit, Nat.mul_mod_mul_right, ← Nat.shiftLeft_eq,
    Nat.shiftLeft_add_eq_or_of_lt hlow]

/-- Rotations add up modulo 32. -/
theorem rotl32_rotl32 (s' : BitVec 5) : rotl32 (rotl32 x s) s' = rotl32 x (s + s') := by
  refine BitVec.eq_of_getLsbD_eq fun j hj => ?_
  rw [rotl32_getLsbD _ _ hj, rotl32_getLsbD _ _ (Nat.mod_lt _ (by decide)), rotl32_getLsbD _ _ hj,
    BitVec.toNat_add]
  congr 1
  omega

/-- A word whose bits are all the same stays under every rotation. -/
theorem rotl32_eq_self_of_getLsbD {x : Word} {v : Bool} (h : ∀ j < 32, x.getLsbD j = v) : rotl32 x s = x := by
  refine BitVec.eq_of_getLsbD_eq fun j hj => ?_
  rw [rotl32_getLsbD x s hj, h _ (Nat.mod_lt _ (by decide)), h j hj]

end

section
variable (s : State)

theorem exec_fnF : exec .fnF s = .next { s with f := funF s.b s.c s.d } := rfl

theorem exec_fnG : exec .fnG s = .next { s with f := funG s.b s.c s.d } := rfl

theorem exec_fnH : exec .fnH s = .next { s with f := funH s.b s.c s.d } := rfl

theorem exec_fnI : exec .fnI s = .next { s with f := funI s.b s.c s.d } := rfl

theorem exec_rotl (n : BitVec 5) : exec (.rotl n) s = .next { s with rot := rotl32 s.sum n } := rfl

end

end Sys2Proof.Machine
end

section
/-! PROOFS of the family 42_alu.md, part 2: the statements settled. -/

namespace Sys2Proof

open Machine Claims

/-- Settles O37: the operation's own function is the value of its signal. -/
theorem evaluatorAndRotatorComplete : Obligations.EvaluatorAndRotatorComplete := fun s =>
  ⟨⟨_, exec_fnF s, fun _ => funF_getLsbD s.b s.c s.d⟩,
    ⟨_, exec_fnG s, fun _ => funG_getLsbD s.b s.c s.d⟩,
    ⟨_, exec_fnH s, fun _ _ => funH_getLsbD s.b s.c s.d⟩,
    ⟨_, exec_fnI s, fun _ => funI_getLsbD s.b s.c s.d⟩,
    fun n => ⟨_, exec_rotl s n, fun _ => rotl32_getLsbD s.sum n⟩⟩

/-- Settles O39: each select names its function, and each function acts on a bit position alone. -/
theorem booleanFunctionsBitByBit : Obligations.BooleanFunctionsBitByBit := fun b c d =>
  ⟨fun _ => funF_getLsbD b c d, fun _ => funG_getLsbD b c d, fun _ _ => funH_getLsbD b c d,
    fun _ => funI_getLsbD b c d, rfl, rfl, rfl, rfl⟩

/-- Settles O40: all but the arithmetic form follow from the bits of the result; `32 - s` is the negative of `s`
among the amounts. -/
theorem rotateLeftIsCircular : Obligations.RotateLeftIsCircular := by
  refine fun x s => ⟨fun _ => rotl32_getLsbD x s, rotl32_zero x, rotl32_toNat x s, fun hs => ?_, ?_, ?_⟩
  · have hback : s + BitVec.ofNat 5 (32 - s.toNat) = 0 := by bv_omega
    rw [rotl32_rotl32, hback, rotl32_zero]
  · exact rotl32_eq_self_of_getLsbD s fun _ _ => BitVec.getLsbD_zero
  · have hones : ∀ j < 32, (0xFFFFFFFF#32).getLsbD j = true := by decide
    exact rotl32_eq_self_of_getLsbD s hones

/-- Settles O41: the sum of three is masked once, as masking each sum of two gives the same. -/
theorem adderWrapsAndComplementStays : Obligations.AdderWrapsAndComplementStays := by
  refine fun x y z => ⟨add32_toNat x y, add32_comm x y, ?_, add32_assoc x y z, not32_toNat x⟩
  rw [add32_toNat, add32_toNat, Nat.mod_add_mod]

end Sys2Proof
end

section
/-! PROOFS of the family 43_compress.md, part 1: a step's formula as the rule its row states, the fields of a step
index against the tables, and the 64 rows as the template at their index. -/

open Sys2Proof.Claims

namespace Sys2Proof.Machine

theorem add32_eq_ofNat (x y : Word) : add32 x y = BitVec.ofNat 32 (x.toNat + y.toNat) := rfl

/-- The evaluator acts bit by bit with the function of the round its select names (42_alu.md R144 to R148). -/
theorem evalFn_getLsbD (fsel : BitVec 2) (b c d : Word) {j : Nat} (hj : j < 32) :
    (evalFn fsel b c d).getLsbD j =
      bitOfRound fsel.toNat (b.getLsbD j) (c.getLsbD j) (d.getLsbD j) := by
  obtain rfl | rfl | rfl | rfl : fsel = 0 ∨ fsel = 1 ∨ fsel = 2 ∨ fsel = 3 := by
    revert fsel
    decide
  · exact funF_getLsbD b c d hj
  · exact funG_getLsbD b c d hj
  · exact funH_getLsbD b c d
  · exact funI_getLsbD b c d hj

/-- The step formula follows the rule of a step with its four fields (43_compress.md R166, R167). -/
theorem applyStep_stepRule (fsel : BitVec 2) (k : BitVec 4) (amount : BitVec 5) (t : Word) (s : State) :
    StepRule (bitOfRound fsel.toNat) k.toNat amount.toNat t.toNat s (applyStep fsel k amount t s) := by
  have hsum : (add32 (add32 (add32 s.a (evalFn fsel s.b s.c s.d)) (readWord s k)) t).toNat =
      (s.a.toNat + (evalFn fsel s.b s.c s.d).toNat + blockWord s k.toNat + t.toNat) % 2 ^ 32 := by
    simp only [add32_toNat, readWord_toNat, Nat.mod_add_mod]
  exact ⟨_, _, _, fun _ => evalFn_getLsbD fsel s.b s.c s.d, hsum, fun _ => rotl32_getLsbD _ amount, rfl⟩

section
variable (i : BitVec 6)

theorem stepRound_toNat : (stepRound i).toNat = i.toNat / 16 := by
  revert i
  decide

theorem stepWord_toNat : (stepWord i).toNat = wordIndex i.toNat := by
  revert i
  decide

theorem stepShift_toNat : (stepShift i).toNat = shiftAmount (i.toNat / 16) (i.toNat % 4) := by
  revert i
  decide

/-- The step an index selects completes and follows the rule with the fields the tables give its index
(43_compress.md R163 to R166). -/
theorem exec_decodeStep_stepRule (s : State) : ∃ t, exec (decodeStep i) s = .next t ∧
    StepRule (bitOfRound (i.toNat / 16)) (wordIndex i.toNat) (shiftAmount (i.toNat / 16) (i.toNat % 4))
      (stepConst i).toNat s t := by
  rw [← stepWord_toNat, ← stepShift_toNat, ← stepRound_toNat]
  exact ⟨_, exec_decodeStep i s, applyStep_stepRule _ _ _ _ s⟩

end

/-- The row the tables give a step index. -/
def rowAtIndex (i : BitVec 6) : StepRow :=
  ⟨decodeStep i, wordIndex i.toNat, shiftAmount (i.toNat / 16) (i.toNat % 4), (stepConst i).toNat⟩

/-- The rows the tables give the sixteen positions of a round. -/
def tableRows (r : BitVec 2) : List StepRow := (List.range 16).map fun p => rowAtIndex (r ++ BitVec.ofNat 4 p)

theorem round0Rows_eq_tableRows : round0Rows = tableRows 0 := rfl

theorem round1Rows_eq_tableRows : round1Rows = tableRows 1 := rfl

theorem round2Rows_eq_tableRows : round2Rows = tableRows 2 := rfl

theorem round3Rows_eq_tableRows : round3Rows = tableRows 3 := rfl

/-- Every table row of a round is followed, with the function of that round. -/
theorem tableRows_stepRule {r : BitVec 2} {row : StepRow} (h : row ∈ tableRows r) (s : State) :
    ∃ t, exec row.instr s = .next t ∧ StepRule (bitOfRound r.toNat) row.word row.amount row.const s t := by
  obtain ⟨p, -, rfl⟩ := List.mem_map.mp h
  have hround : (r ++ BitVec.ofNat 4 p).toNat / 16 = r.toNat := by
    rw [← stepRound_toNat, stepRound, BitVec.extractLsb'_append_eq_left]
  rw [← hround]
  exact exec_decodeStep_stepRule _ s

/-- Within a round no word is read twice: each round's multiplier is odd (43_compress.md R165). -/
theorem stepWord_injective (r : BitVec 2) : Function.Injective fun p : BitVec 4 => stepWord (r ++ p) := by
  unfold Function.Injective
  revert r
  decide +kernel

end Sys2Proof.Machine
end

section
/-! PROOFS of the family 43_compress.md, part 2: the frame of a micro-operation, the step index after a run of 64
steps, a run of step events as a run of steps, and the fixed-register form. -/

open Sys2Proof.Claims

namespace Sys2Proof.Machine

/-- A step leaves the index to the sequencer (43_compress.md R161; log entry 8). -/
@[simp] theorem stepAtIndex_I (s : State) : (stepAtIndex s).I = s.I := rfl

/-- The index stays at 63 after the last of the 64 steps (43_compress.md R161; log entry 8). -/
theorem compress_I (s : State) : (compress s).I = 63 := by
  have hlast : (stepAtIndex (runSteps 63 (loadWorking s))).I = 63 :=
    (stepAtIndex_I _).trans (runSteps_loadWorking_I s (le_refl 63))
  rw [compress, feedForward_I, runSteps_succ_last, advanceIndex_I, if_pos hlast, hlast]

/-- After `COMPRESS` the working registers are those of the 64 steps (43_compress.md R161, R162). -/
theorem compress_working (s : State) : workingOf (compress s) = cfSteps (readWord s) (chainOf s) 64 := by
  rw [compress, feedForward_working, runSteps_loadWorking_working s (le_refl 64)]

/-- A run of steps does not look at what is pending (log entry 1). -/
theorem runSteps_withPending (n : Nat) (s : State) (evs : List Event) :
    runSteps n { s with pending := evs } = { runSteps n s with pending := evs } := by
  induction n generalizing s with
  | zero => rfl
  | succ n ih =>
    rw [runSteps, runSteps, ← ih, advanceIndex_eq, advanceIndex_eq]
    rfl

/-- A step event performs the step its index selects and moves the index (30_encoding.md R76;
43_compress.md R161). -/
theorem step_stepEvent {s : State} {rest : List Event} (h : s.pending = .step :: rest) :
    step s = .next (advanceIndex (stepAtIndex { s with pending := rest })) := by
  rw [step_cons h, executeEvent, exec_decodeStep]
  rfl

/-- As many step events as steps: the host's run is the sequencer's (43_compress.md R161). -/
theorem after_stepEvents {n : Nat} {s : State} {rest : List Event}
    (h : s.pending = List.replicate n .step ++ rest) :
    after n s = .next { runSteps n s with pending := rest } := by
  induction n generalizing s with
  | zero => rw [← show s.pending = rest from h]; rfl
  | succ n ih =>
    rw [List.replicate_succ, List.cons_append] at h
    have hstep := step_stepEvent h
    have hpending : (advanceIndex (stepAtIndex { s with pending := List.replicate n .step ++ rest })).pending =
        List.replicate n .step ++ rest := advanceIndex_pending _
    calc after (n + 1) s
      _ = after n (advanceIndex (stepAtIndex { s with pending := List.replicate n .step ++ rest })) :=
        run_next Sys2Proof.core n hstep
      _ = .next { runSteps (n + 1) { s with pending := List.replicate n .step ++ rest } with pending := rest } :=
        ih hpending
      _ = .next { runSteps (n + 1) s with pending := rest } := by rw [runSteps_withPending]

/-- The feed-forward does not look at what is pending (log entry 1). -/
theorem feedForward_withPending (s : State) (evs : List Event) :
    feedForward { s with pending := evs } = { feedForward s with pending := evs } := rfl

/-- The working tuple of `CF` in four fixed registers: which of them plays `a`, `b`, `c` and `d` before step `n`
(43_compress.md R167). -/
def rolesBefore (n : Nat) (w : Chain) : Chain :=
  if n % 4 = 0 then w
  else if n % 4 = 1 then ⟨w.D, w.A, w.B, w.C⟩
  else if n % 4 = 2 then ⟨w.C, w.D, w.A, w.B⟩
  else ⟨w.B, w.C, w.D, w.A⟩

section
variable (x : BitVec 4 → Word) (w : Chain)

/-- One step in fixed registers, read by the roles after it, is one step of `CF` on the roles before it. -/
theorem rolesBefore_fixedStep (n : Nat) :
    rolesBefore (n + 1) (fixedStep x w n) = cfStep x (rolesBefore n w) (BitVec.ofNat 6 n) := by
  obtain h | h | h | h : n % 4 = 0 ∨ n % 4 = 1 ∨ n % 4 = 2 ∨ n % 4 = 3 := by omega
  all_goals
    have hsucc : (n + 1) % 4 = (n % 4 + 1) % 4 := by omega
    simp [rolesBefore, fixedStep, hsucc, h, cfStep]

theorem rolesBefore_fixedSteps (n : Nat) :
    rolesBefore n ((List.range n).foldl (fixedStep x) w) = cfSteps x w n := by
  induction n with
  | zero => rfl
  | succ n ih =>
    rw [List.range_succ, List.foldl_append, List.foldl_cons, List.foldl_nil, rolesBefore_fixedStep, ih, cfSteps_succ]

end

end Sys2Proof.Machine
end

section
/-! PROOFS of the family 43_compress.md, part 3: the sine table. The number `exp i` is known to 48 bits from its
Taylor polynomial of degree 16; its powers, whose imaginary parts are the sines, are then known from the powers of
one Gaussian integer, and 64 comparisons of natural numbers decide the integer parts. -/

namespace Sys2Proof.Sine

open Complex

/-- `16!`. -/
def denom : ℕ := 20922789888000

/-- `16!` times the Taylor polynomial of degree 16 of `exp` at `i`: a Gaussian integer. -/
def numer : GaussianInt := ⟨11304631621681, 17605920611984⟩

theorem numer_div_denom : (numer / denom : ℂ) = ∑ m ∈ Finset.range 17, I ^ m / (m.factorial : ℂ) := by
  simp only [Finset.sum_range_succ, Finset.sum_range_zero, Nat.factorial, GaussianInt.toComplex_def, numer, denom]
  apply Complex.ext <;> simp [pow_succ] <;> norm_num

theorem norm_exp_I_sub_le : ‖exp I - numer / denom‖ ≤ 1 / 2 ^ 48 := by
  have hbound := exp_bound (x := I) norm_I.le (n := 17) (by norm_num)
  rw [← numer_div_denom, norm_I] at hbound
  exact hbound.trans (by norm_num [Nat.factorial])

theorem norm_numer_div_denom_le : ‖(numer / denom : ℂ)‖ ≤ 1 := by
  have hsq : numer.norm ≤ (denom : ℤ) ^ 2 := by decide
  rw [norm_div, norm_natCast]
  refine div_le_one_of_le₀ (abs_le_of_sq_le_sq' ?_ denom.cast_nonneg).2 denom.cast_nonneg
  rw [← normSq_eq_norm_sq, ← GaussianInt.intCast_real_norm]
  exact_mod_cast hsq

/-- In the unit disc an error grows at most in proportion to the exponent. -/
theorem norm_pow_sub_pow_le {z w : ℂ} (hz : ‖z‖ ≤ 1) (hw : ‖w‖ ≤ 1) (n : ℕ) :
    ‖z ^ n - w ^ n‖ ≤ n * ‖z - w‖ := by
  induction n with
  | zero => simp
  | succ n ih =>
    have hsplit : z ^ (n + 1) - w ^ (n + 1) = z ^ n * (z - w) + (z ^ n - w ^ n) * w := by ring
    have hfirst : ‖z ^ n * (z - w)‖ ≤ ‖z - w‖ := by
      rw [norm_mul, norm_pow]
      exact mul_le_of_le_one_left (norm_nonneg _) (pow_le_one₀ (norm_nonneg _) hz)
    have hrest : ‖(z ^ n - w ^ n) * w‖ ≤ n * ‖z - w‖ := by
      rw [norm_mul]
      exact (mul_le_of_le_one_right (norm_nonneg _) hw).trans ih
    calc ‖z ^ (n + 1) - w ^ (n + 1)‖
      _ ≤ ‖z ^ n * (z - w)‖ + ‖(z ^ n - w ^ n) * w‖ := hsplit ▸ norm_add_le _ _
      _ ≤ ‖z - w‖ + n * ‖z - w‖ := add_le_add hfirst hrest
      _ = (n + 1 : ℕ) * ‖z - w‖ := by push_cast; ring

theorem norm_exp_I : ‖exp I‖ = 1 := by
  simpa using norm_exp_ofReal_mul_I 1

/-- The sine of a natural number is the imaginary part of a power of `exp i`. -/
theorem sin_natCast (n : ℕ) : Real.sin n = (exp I ^ n).im := by
  rw [← exp_nat_mul, ← ofReal_natCast, exp_ofReal_mul_I_im]

theorem abs_sin_sub_le (n : ℕ) :
    |Real.sin n - (numer ^ n).im / (denom : ℝ) ^ n| ≤ n / 2 ^ 48 := by
  have him : (numer ^ n).im / (denom : ℝ) ^ n = ((numer / denom : ℂ) ^ n).im := by
    rw [div_pow, ← map_pow, ← Nat.cast_pow, ← Nat.cast_pow, div_natCast_im, GaussianInt.intCast_im]
  calc |Real.sin n - (numer ^ n).im / (denom : ℝ) ^ n|
    _ = |(exp I ^ n - (numer / denom : ℂ) ^ n).im| := by rw [sub_im, sin_natCast, him]
    _ ≤ ‖exp I ^ n - (numer / denom : ℂ) ^ n‖ := abs_im_le_norm _
    _ ≤ n * ‖exp I - numer / denom‖ := norm_pow_sub_pow_le norm_exp_I.le norm_numer_div_denom_le n
    _ ≤ n * (1 / 2 ^ 48) := by gcongr; exact norm_exp_I_sub_le
    _ = n / 2 ^ 48 := mul_one_div _ _

/-- `2^32` times the approximate sine of `n` lies between `t` and `t + 1`, with the error to spare on both sides. -/
abbrev SineBracket (n t : ℕ) : Prop :=
  (2 ^ 16 * t + n) * denom ^ n ≤ 2 ^ 48 * (numer ^ n).im.natAbs ∧
    2 ^ 48 * (numer ^ n).im.natAbs + n * denom ^ n < 2 ^ 16 * (t + 1) * denom ^ n

theorem floor_sin_of_sineBracket {n t : ℕ} (h : SineBracket n t) : ⌊(2 : ℝ) ^ 32 * |Real.sin n|⌋ = t := by
  obtain ⟨hlow, hhigh⟩ := h
  have hd : (0 : ℝ) < (denom : ℝ) ^ n := by norm_num [denom]
  obtain ⟨y, hy⟩ : ∃ y, y = |(numer ^ n).im / (denom : ℝ) ^ n| := ⟨_, rfl⟩
  have hnat : ((numer ^ n).im.natAbs : ℝ) = y * (denom : ℝ) ^ n := by
    rw [hy, abs_div, abs_of_pos hd, div_mul_cancel₀ _ hd.ne', Nat.cast_natAbs, Int.cast_abs]
  have hlow' : 2 ^ 16 * (t : ℝ) + n ≤ 2 ^ 48 * y := by
    refine le_of_mul_le_mul_right ?_ hd
    rw [mul_assoc, ← hnat]
    exact_mod_cast hlow
  have hhigh' : 2 ^ 48 * y + n < 2 ^ 16 * ((t : ℝ) + 1) := by
    refine lt_of_mul_lt_mul_right ?_ hd.le
    rw [add_mul, mul_assoc, ← hnat]
    exact_mod_cast hhigh
  have herr := (abs_abs_sub_abs_le _ _).trans (abs_sin_sub_le n)
  rw [← hy, abs_le] at herr
  obtain ⟨hbelow, habove⟩ := herr
  refine Int.floor_eq_iff.mpr ⟨?_, ?_⟩
  · push_cast
    linarith
  · push_cast
    linarith

theorem stepConst_sineBracket (i : BitVec 6) : SineBracket (i.toNat + 1) (Machine.stepConst i).toNat := by
  revert i
  decide +kernel

end Sys2Proof.Sine
end

section
/-! PROOFS of the family 43_compress.md, part 4: the statements settled. -/

namespace Sys2Proof

open Machine Claims

/-- Settles O30: the rows of the round are the tables' rows. -/
theorem roundZeroStepsFollowTheirRows : Obligations.RoundZeroStepsFollowTheirRows :=
  fun _ h s => tableRows_stepRule (round0Rows_eq_tableRows ▸ h) s

/-- Settles O31: the rows of the round are the tables' rows. -/
theorem roundOneStepsFollowTheirRows : Obligations.RoundOneStepsFollowTheirRows :=
  fun _ h s => tableRows_stepRule (round1Rows_eq_tableRows ▸ h) s

/-- Settles O32: the rows of the round are the tables' rows. -/
theorem roundTwoStepsFollowTheirRows : Obligations.RoundTwoStepsFollowTheirRows :=
  fun _ h s => tableRows_stepRule (round2Rows_eq_tableRows ▸ h) s

/-- Settles O33: the rows of the round are the tables' rows. -/
theorem roundThreeStepsFollowTheirRows : Obligations.RoundThreeStepsFollowTheirRows :=
  fun _ h s => tableRows_stepRule (round3Rows_eq_tableRows ▸ h) s

/-- Settles O34. -/
theorem everyStepIsTheTemplateAtItsIndex : Obligations.EveryStepIsTheTemplateAtItsIndex :=
  exec_decodeStep_stepRule

/-- Settles O35, by 64 comparisons with the powers of an approximation of `exp i`. -/
theorem additiveConstantsAreTheSineTable : Obligations.AdditiveConstantsAreTheSineTable := by
  intro i
  have hfloor := Sine.floor_sin_of_sineBracket (Sine.stepConst_sineBracket i)
  rw [Nat.cast_succ] at hfloor
  exact hfloor.symm

/-- Settles O38, from what a micro-operation can write. -/
theorem microOperationsKeepArchitecture : Obligations.MicroOperationsKeepArchitecture := by
  rintro i s ⟨hinit, hputc, hfinal⟩
  obtain ⟨w, f, u, r, h⟩ := exec_micro hinit hputc hfinal s
  exact ⟨_, h, sameArch_hidden s w s.I s.encb s.encn f u r s.epoch s.pending, rfl, rfl, rfl, rfl, rfl,
    fun _ => rfl⟩

/-- Settles O42: the feed-forward leaves the working registers of the 64 steps. -/
theorem compressIsTheCompressionFunction : Obligations.CompressIsTheCompressionFunction := by
  refine fun s => ⟨compress_chain s, compress_working s, compress_I s, ?_⟩
  obtain ⟨v, w, i, f, u, r, h⟩ := compress_frame s
  rw [h]

/-- Settles O43: after the load the step events run as the sequencer does. -/
theorem sixtyFourStepEventsAreACompress : Obligations.SixtyFourStepEventsAreACompress := by
  intro s rest h
  have hload : step s = .next (loadWorking { s with pending := List.replicate 64 .step ++ rest }) := step_cons h
  refine ⟨{ runSteps 64 (loadWorking s) with pending := rest }, ?_, rfl, feedForward_withPending _ rest⟩
  calc after 65 s
    _ = after 64 { loadWorking s with pending := List.replicate 64 .step ++ rest } :=
      run_next Sys2Proof.core 64 hload
    _ = _ := by rw [after_stepEvents rfl, runSteps_withPending]

/-- Settles O44: the two forms agree by their roles after any number of steps, and 64 is a multiple of 4. -/
theorem fixedRegisterFormIsEquivalent : Obligations.FixedRegisterFormIsEquivalent :=
  fun x w => rolesBefore_fixedSteps x w 64

/-- Settles O7; a step leaves the index to the sequencer. -/
theorem stepRunsTheMicroOperation : Obligations.StepRunsTheMicroOperation := by
  refine fun s rest => ⟨step_nil, fun h t ht => ?_, fun _ h => step_cons h, fun _ h => step_cons h,
    fun h => step_cons h⟩
  have hI : t.I = s.I := by
    rw [exec_decodeStep] at ht
    rw [← Host.Outcome.next.inj ht, applyStep_I]
  rw [step_cons h, executeEvent, ht, afterStep, advanceIndex_eq, hI]
  split
  · next h63 => rw [h63]
  · rfl

/-- Settles O36: on the sixteen positions an injective reading is a bijective one. -/
theorem eachRoundUsesEveryWordOnce : Obligations.EachRoundUsesEveryWordOnce :=
  fun r k => (Finite.injective_iff_bijective.mp (stepWord_injective r)).existsUnique k

end Sys2Proof
end

section
/-! PROOFS of the family 44_serializer.md, part 1: a digest character as the digit of one nibble of one word, and what
the digits and the nibbles determine. -/

namespace Sys2Proof.Machine

/-- A nibble's digit as a number (44_serializer.md R250). -/
theorem hexChar_toNat (n : BitVec 4) :
    (hexChar n).toNat = if n.toNat < 10 then 0x30 + n.toNat else 0x61 + (n.toNat - 10) := by
  revert n
  decide

/-- Different nibbles have different digits (44_serializer.md R250). -/
theorem hexChar_injective : Function.Injective hexChar := by
  intro n n' h
  have hnat := congrArg BitVec.toNat h
  rw [hexChar_toNat, hexChar_toNat] at hnat
  apply BitVec.eq_of_toNat_eq
  split at hnat <;> split at hnat <;> omega

/-- A field of a field is a field. -/
theorem extractLsb'_extractLsb' {n : Nat} (x : BitVec n) {start len i len' : Nat} (h : i + len' ≤ len) :
    (x.extractLsb' start len).extractLsb' i len' = x.extractLsb' (start + i) len' := by
  ext k hk
  rw [BitVec.getElem_extractLsb', BitVec.getLsbD_extractLsb', BitVec.getElem_extractLsb',
    decide_eq_true (show i + k < len by omega), Bool.true_and, Nat.add_assoc]

/-- Nibble `k` of a word, the least significant being nibble 0. -/
def wordNibble (w : Word) (k : Nat) : BitVec 4 := w.extractLsb' (4 * k) 4

theorem wordNibble_toNat (w : Word) (k : Nat) : (wordNibble w k).toNat = w.toNat / 16 ^ k % 16 := by
  rw [wordNibble, BitVec.extractLsb'_toNat, Nat.shiftRight_eq_div_pow, Nat.pow_mul]

/-- A word's eight nibbles determine it. -/
theorem word_eq_of_wordNibble {v w : Word} (h : ∀ k < 8, wordNibble v k = wordNibble w k) : v = w := by
  apply BitVec.eq_of_getLsbD_eq
  intro i hi
  have hbit : ∀ x : Word, x.getLsbD i = (wordNibble x (i / 4)).getLsbD (i % 4) := by
    intro x
    rw [wordNibble, BitVec.getLsbD_extractLsb', Nat.div_add_mod, decide_eq_true (Nat.mod_lt i (by decide)),
      Bool.true_and]
  rw [hbit v, hbit w, h (i / 4) (by omega)]

/-- Which nibble of its word character `j` of the digest spells: the high one of each byte first
(44_serializer.md R252). -/
def nibblePlace (j : Nat) : Nat := 2 * (j / 2 % 4) + (1 - j % 2)

theorem nibblePlace_lt (j : Nat) : nibblePlace j < 8 := by
  unfold nibblePlace
  omega

/-- Within a word, the character that spells nibble `k` stands at the place `k` itself would spell. -/
theorem nibblePlace_nibblePlace (q : Nat) {k : Nat} (hk : k < 8) : nibblePlace (8 * q + nibblePlace k) = k := by
  unfold nibblePlace
  omega

/-- The halves of a digest byte are two neighbouring nibbles of its word (44_serializer.md R251). -/
theorem digestByte_nibble (A B C D : Word) (m : Nat) {i : Nat} (hi : i < 2) :
    (digestByte A B C D m).extractLsb' (4 * i) 4 =
      wordNibble ([A, B, C, D].getD (m / 4) 0) (2 * (m % 4) + i) := by
  have hstart : 4 * (2 * (m % 4) + i) = 8 * (m % 4) + 4 * i := by omega
  rw [digestByte, wordNibble, hstart, extractLsb'_extractLsb' _ (by omega)]

/-- Character `j` of the digest is the digit of its nibble of its word (44_serializer.md R252). -/
theorem digestChars_getElem (A B C D : Word) (j : Fin 32) :
    (digestChars A B C D)[j] = hexChar (wordNibble ([A, B, C, D].getD (j.val / 8) 0) (nibblePlace j)) := by
  have hword : j.val / 8 = j.val / 2 / 4 := (Nat.div_div_eq_div_mul j.val 2 4).symm
  simp only [digestChars, Fin.getElem_fin, Vector.getElem_ofFn, hword, nibblePlace]
  split
  · next heven =>
    rw [heven]
    exact congrArg hexChar (digestByte_nibble A B C D _ (i := 1) (by decide))
  · next hodd =>
    rw [Nat.mod_two_ne_zero.mp hodd]
    exact congrArg hexChar (digestByte_nibble A B C D _ (i := 0) (by decide))

/-- Each nibble of each word is spelled by some character (44_serializer.md R252). -/
theorem exists_digestChars_eq_hexChar {q k : Nat} (hq : q < 4) (hk : k < 8) :
    ∃ j : Fin 32, ∀ A B C D, (digestChars A B C D)[j] = hexChar (wordNibble ([A, B, C, D].getD q 0) k) := by
  have hplace := nibblePlace_lt k
  refine ⟨⟨8 * q + nibblePlace k, by omega⟩, fun A B C D => ?_⟩
  have hword : (8 * q + nibblePlace k) / 8 = q := by omega
  rw [digestChars_getElem, hword, nibblePlace_nibblePlace q hk]

/-- The digest determines each of its four words (44_serializer.md R253). -/
theorem word_eq_of_digestChars {A B C D A' B' C' D' : Word} (h : digestChars A B C D = digestChars A' B' C' D')
    {q : Nat} (hq : q < 4) : [A, B, C, D].getD q 0 = [A', B', C', D'].getD q 0 := by
  apply word_eq_of_wordNibble
  intro k hk
  obtain ⟨j, hj⟩ := exists_digestChars_eq_hexChar hq hk
  apply hexChar_injective
  rw [← hj, ← hj, h]

/-- Different chaining values have different digests (44_serializer.md R253). -/
theorem digestOf_injective : Function.Injective digestOf := by
  rintro ⟨A, B, C, D⟩ ⟨A', B', C', D'⟩ h
  have hwords : ∀ q < 4, [A, B, C, D].getD q 0 = [A', B', C', D'].getD q 0 := fun _ => word_eq_of_digestChars h
  rw [Chain.mk.injEq]
  exact ⟨hwords 0 (by decide), hwords 1 (by decide), hwords 2 (by decide), hwords 3 (by decide)⟩

end Sys2Proof.Machine
end

section
/-! PROOFS of the family 44_serializer.md, part 2: the statements settled. -/

namespace Sys2Proof

open Machine Claims

/-- Settles O54: the nibble's digit as a number, at the nibble the character spells. -/
theorem serializerSpellsTheNibbles : Obligations.SerializerSpellsTheNibbles := by
  refine fun s j => ⟨?_, rfl⟩
  rw [readHex, serialize_hex, digestChars_getElem, hexChar_toNat, wordNibble_toNat, nibblePlace]

/-- Settles O55: a character is some nibble's digit, and the characters determine the words. -/
theorem digestsAreHexAndDistinct : Obligations.DigestsAreHexAndDistinct := by
  refine ⟨fun st j => ?_, fun _ _ h => digestOf_injective h⟩
  obtain ⟨n, hn⟩ := digestChars_hexChar st.A st.B st.C st.D j
  rw [digestOf, hn]
  exact hexChar_range n

end Sys2Proof
end

section
/-! PROOFS of the family 45_commands.md, part 1: what one step does with a command word, in each phase, and the
words of the three opcodes that are no command. -/

open Sys2Proof.Claims

namespace Sys2Proof

section
variable {w : BitVec 32}

/-- The commands without an operand carry none (30_encoding.md R75). -/
theorem decode_reject_of_operandless (hopc : opc w = 1 ∨ opc w = 3) (h : rsv w ≠ 0 ∨ cpField w ≠ 0) :
    ∃ why, decode (.cmd32 w) = .reject why := by
  by_cases hrsv : rsv w = 0
  · have hcp : cpField w ≠ 0 := h.resolve_left (not_not_intro hrsv)
    exact ⟨.operandNotZero, decodeCommand_of_wordClass ⟨hopc, hrsv, hcp⟩⟩
  · exact ⟨.reservedField, decodeCommand_of_wordClass ⟨by omega, hrsv⟩⟩

theorem decode_reject_of_putc (hopc : opc w = 2) (hrsv : rsv w ≠ 0) :
    ∃ why, decode (.cmd32 w) = .reject why :=
  ⟨.reservedField, decodeCommand_of_wordClass ⟨by omega, hrsv⟩⟩

end

end Sys2Proof

namespace Sys2Proof.Machine

theorem exists_utf8Bytes_of_isScalar {cp : BitVec 21} (h : IsScalar cp) : ∃ bs, utf8Bytes cp = some bs :=
  Option.isSome_iff_exists.mp (utf8Bytes_isSome_iff.mpr h)

theorem utf8Bytes_eq_none_of_not_isScalar {cp : BitVec 21} (h : ¬ IsScalar cp) : utf8Bytes cp = none :=
  Option.not_isSome_iff_eq_none.mp (mt utf8Bytes_isSome_iff.mp h)

/-- A micro-operation leaves the phase (42_alu.md R140; 43_compress.md R166). -/
theorem exec_micro_phase {i : Instr} {s t : State} (hi : IsMicro i) (h : exec i s = .next t) :
    t.phase = s.phase := by
  obtain ⟨u, hu, harch, -⟩ := microOperationsKeepArchitecture i s hi
  obtain rfl := Host.Outcome.next.inj (hu.symm.trans h)
  exact harch.phase_eq

/-- The model's own events leave the phase (45_commands.md R273; log entry 2). -/
theorem executeEvent_micro_phase {e : Event} {s t : State}
    (he : e = .load ∨ e = .step ∨ (∃ fsel, e = .select fsel) ∨ ∃ n, e = .rotate n)
    (h : executeEvent e s = .next t) : t.phase = s.phase := by
  obtain rfl | rfl | ⟨fsel, rfl⟩ | ⟨n, rfl⟩ := he
  · rw [← Host.Outcome.next.inj h, loadWorking_phase]
  · rw [executeEvent, exec_decodeStep] at h
    rw [← Host.Outcome.next.inj h, advanceIndex_phase, applyStep_phase]
  · exact exec_micro_phase (decodeSelect_micro fsel) h
  · have hm : IsMicro (.rotl n) := by simp [IsMicro]
    exact exec_micro_phase hm h

section
variable {s : State} {w : BitVec 32} {rest : List Event} (h : s.pending = .command w :: rest)
include h

theorem step_command_fault (hp : s.phase = .fault) : step s = .next { s with pending := rest } :=
  (step_cons h).trans (executeWord_fault w hp)

theorem step_command_reject {why : Reject} (hp : s.phase ≠ .fault) (hd : decode (.cmd32 w) = .reject why) :
    step s = .next (raise .illcmd { s with pending := rest }) :=
  (step_cons h).trans (executeWord_reject hp hd)

theorem step_command_instr {i : Instr} (hp : s.phase ≠ .fault) (hd : decode (.cmd32 w) = .instr i) :
    step s = exec i { s with pending := rest } :=
  (step_cons h).trans (executeWord_instr hp hd)

theorem step_command_init (hp : s.phase ≠ .fault) (hd : decode (.cmd32 w) = .instr .init) :
    step s = .next (openMessage { s with pending := rest }) :=
  (step_command_instr h hp hd).trans (execInit_open hp)

/-- A message once closed is neither extended nor closed again (45_commands.md R265). -/
theorem step_command_seq {i : Instr} (hp : s.phase = .done) (hd : decode (.cmd32 w) = .instr i)
    (hi : i = .final ∨ ∃ cp, i = .putc cp) : step s = .next (raise .seq { s with pending := rest }) := by
  have hstep := step_command_instr h (by simp [hp]) hd
  obtain rfl | ⟨cp, rfl⟩ := hi
  · exact hstep.trans (execFinal_done hp)
  · exact hstep.trans (execPutc_done cp hp)

variable (hp : s.phase = .absorb)
include hp

theorem step_command_badcp {cp : BitVec 21} (hd : decode (.cmd32 w) = .instr (.putc cp))
    (hb : utf8Bytes cp = none) : step s = .next (raise .badcp { s with pending := rest }) :=
  (step_command_instr h (by simp [hp]) hd).trans (execPutc_bad hp hb)

theorem step_command_putc {cp : BitVec 21} {bs : List Byte} (hd : decode (.cmd32 w) = .instr (.putc cp))
    (hb : utf8Bytes cp = some bs) :
    step s = .next (closeCommand (appendBytes bs (latchBytes bs { s with pending := rest }))) :=
  (step_command_instr h (by simp [hp]) hd).trans (execPutc_legal hp hb)

theorem step_command_final (hd : decode (.cmd32 w) = .instr .final) :
    step s = .next (closeCommand { serialize (pad { s with pending := rest }) with phase := .done }) :=
  (step_command_instr h (by simp [hp]) hd).trans (execFinal_absorb hp)

end

end Sys2Proof.Machine
end

section
/-! PROOFS of the family 45_commands.md, part 2: the run of `HASH`. After each `PUTC` the machine has absorbed the
bytes of one code point more; `FINAL` then absorbs what makes of the message its padded form. -/

open Sys2Proof.Claims

namespace Sys2Proof.Machine

/-- A message is open that has absorbed `msg`, its buffer is canonical, and `evs` are to come. -/
structure State.Hashing (msg : List Byte) (evs : List Event) (s : State) : Prop where
  absorbed : s.Absorbed msg
  buf_wf : Memory.wf s.buf = true
  pending_eq : s.pending = evs

/-- After `INIT` nothing is absorbed (45_commands.md R266). -/
theorem openMessage_absorbed (s : State) : (openMessage s).Absorbed [] where
  phase_eq := rfl
  nbytes_eq := rfl
  fill_eq := rfl
  bytes_eq _ hj := absurd hj (Nat.not_lt_zero _)
  chain_eq := (chainAfter_zero []).symm

theorem openMessage_hashing (s : State) (evs : List Event) :
    (openMessage { s with pending := evs }).Hashing [] evs :=
  ⟨openMessage_absorbed _, Memory.wf_nil, rfl⟩

/-- One `PUTC` of a run (45_commands.md R268). -/
theorem step_putc_hashing {s : State} {msg bs : List Byte} {cp : BitVec 21} {rest : List Event}
    (h : s.Hashing msg (.command (putcWord cp.toNat) :: rest)) (hb : utf8Bytes cp = some bs) :
    ∃ t, step s = .next t ∧ t.Hashing (msg ++ bs) rest := by
  obtain ⟨habs, hwf, hpend⟩ := h
  have hlatch : (latchBytes bs { s with pending := rest }).Absorbed msg :=
    habs.of_sameArch ((latchBytes_sameArch _ bs).trans ((SameArch.refl s).pending rest s.pending))
  obtain ⟨happ, happwf⟩ := hlatch.appendBytes hwf bs
  refine ⟨_, step_command_putc hpend habs.phase_eq (decodeCommand_putcWord cp) hb,
    happ.of_sameArch (closeCommand_sameArch _), happwf, ?_⟩
  simp [appendBytes_eq]

/-- The `PUTC`s of a text, whatever comes after them (45_commands.md R272). -/
theorem after_putcs_hashing {cps : List (BitVec 21)} {s : State} {msg text : List Byte} {rest : List Event} (n : Nat)
    (h : s.Hashing msg ((cps.map fun cp => putcWord cp.toNat).map Event.command ++ rest))
    (htext : textBytes cps = some text) :
    ∃ t, after (cps.length + n) s = after n t ∧ t.Hashing (msg ++ text) rest := by
  induction cps generalizing s msg text with
  | nil =>
    obtain rfl := Option.some.inj htext
    exact ⟨s, by rw [List.length_nil, Nat.zero_add], by simpa using h⟩
  | cons cp cps ih =>
    obtain ⟨bs, tail, hbs, htail, rfl⟩ := textBytes_cons_eq_some.mp htext
    obtain ⟨u, hstep, hu⟩ := step_putc_hashing h hbs
    obtain ⟨t, hrun, ht⟩ := ih hu htail
    refine ⟨t, ?_, List.append_assoc msg bs tail ▸ ht⟩
    rw [List.length_cons, Nat.add_right_comm]
    exact (run_next Sys2Proof.core _ hstep).trans hrun

/-- `FILL` counts the zeros of the padding as the length of the message does (41_padder.md R123). -/
theorem zeroCount_mod (len : Nat) : zeroCount (len % 64) = zeroCount len := by
  rw [zeroCount, zeroCount]
  omega

/-- `PAD` absorbs what the padded message has after the message itself (41_padder.md R127, R128). -/
theorem State.Absorbed.pad_streamed {s : State} {msg : List Byte} (h : s.Absorbed msg)
    (hwf : Memory.wf s.buf = true) : (pad s).Streamed (paddedBytes msg) := by
  have hlen : lengthField s = BitVec.ofNat 64 (8 * msg.length) := by
    apply BitVec.eq_of_toNat_eq
    rw [lengthField_toNat, h.nbytes_eq, BitVec.toNat_ofNat]
    omega
  have hstream := (h.streamed hwf).absorbAll
    (0x80#8 :: List.replicate (zeroCount s.fill.toNat) 0x00#8 ++ lengthBytes (lengthField s))
  rw [← pad_eq_absorbAll, h.fill_eq, zeroCount_mod, hlen] at hstream
  simpa [paddedBytes] using hstream

/-- After the padding the chaining registers hold the message's `md5state` (41_padder.md R128). -/
theorem State.Absorbed.pad_chain {s : State} {msg : List Byte} (h : s.Absorbed msg)
    (hwf : Memory.wf s.buf = true) : chainOf (pad s) = md5State msg :=
  (h.pad_streamed hwf).chain_eq

end Sys2Proof.Machine
end

section
/-! PROOFS of the family 45_commands.md, part 3: a block filled by absorbed bytes, and the one or two blocks `FINAL`
fills, byte by byte. -/

open Sys2Proof.Claims

namespace Sys2Proof.Machine

/-- A block is the first 64 of the bytes it is given by. -/
theorem blockOf_congr {f g : Nat → Byte} (h : ∀ j < 64, f j = g j) : blockOf f = blockOf g := by
  funext k
  have hk : k.toNat < 16 := k.isLt
  simp only [blockOf, h (4 * k.toNat) (by omega), h (4 * k.toNat + 1) (by omega), h (4 * k.toNat + 2) (by omega),
    h (4 * k.toNat + 3) (by omega)]

section
variable {s : State}

/-- The byte at address `FILL` is the first of the new ones. -/
theorem readByte_writeByte_eq_streamByte (v : Byte) (vs : List Byte) (hwf : Memory.wf s.buf = true)
    {addr : BitVec 6} (ha : addr.toNat ≤ s.fill.toNat) :
    readByte (writeByte s s.fill v) addr = streamByte s (v :: vs) addr.toNat := by
  rw [readByte_writeByte s.fill addr v hwf]
  by_cases hf : addr = s.fill
  · rw [if_pos hf, hf, streamByte, if_neg (Nat.lt_irrefl _), Nat.sub_self, List.getD_cons_zero]
  · have hlt : addr.toNat < s.fill.toNat := by bv_omega
    rw [if_neg hf, streamByte, if_pos hlt, BitVec.ofNat_toNat, BitVec.setWidth_eq]

/-- A byte absorbed before the block is full moves from the new bytes into the buffer (41_padder.md R121). -/
theorem streamByte_absorb (v : Byte) (vs : List Byte) (hwf : Memory.wf s.buf = true) (hf : s.fill ≠ 63) :
    streamByte (absorb v s) vs = streamByte s (v :: vs) := by
  have hfill : (absorb v s).fill.toNat = s.fill.toNat + 1 := by
    rw [absorb_fill]
    bv_omega
  funext j
  by_cases hj : j < s.fill.toNat + 1
  · have haddr : (BitVec.ofNat 6 j).toNat = j := by bv_omega
    rw [streamByte, hfill, if_pos hj, readByte_congr (absorb_buf v s),
      readByte_writeByte_eq_streamByte v vs hwf (by omega), haddr]
  · have hnext : j - s.fill.toNat = j - (s.fill.toNat + 1) + 1 := by omega
    rw [streamByte, hfill, if_neg hj, streamByte, if_neg (by omega), hnext, List.getD_cons_succ]

/-- Bytes that fill the block, with less than a block after it, have `CF` applied once, to the block they fill
(41_padder.md R121). -/
theorem absorbAll_chain_full {vs : List Byte} (hwf : Memory.wf s.buf = true)
    (hfull : 64 ≤ s.fill.toNat + vs.length) (hlt : s.fill.toNat + vs.length < 128) :
    chainOf (absorbAll vs s) = compressionFn (chainOf s) (blockOf (streamByte s vs)) := by
  induction vs generalizing s with
  | nil =>
    rw [List.length_nil] at hfull
    omega
  | cons v vs ih =>
    rw [List.length_cons] at hfull hlt
    by_cases hf : s.fill = 63
    · have h63 : s.fill.toNat = 63 := fill_toNat_eq_63_iff.mpr hf
      have hzero : (absorb v s).fill.toNat = 0 := by
        rw [absorb_fill]
        bv_omega
      rw [absorbAll, absorbAll_chain (by omega), absorb_chain_full v hf,
        readWord_eq_blockOf fun addr => readByte_writeByte_eq_streamByte v vs hwf (by omega)]
    · have hfill : (absorb v s).fill.toNat = s.fill.toNat + 1 := by
        rw [absorb_fill]
        bv_omega
      rw [absorbAll, ih (absorb_wf v s hwf) (by omega) (by omega), absorb_chain_partial v hf,
        streamByte_absorb v vs hwf hf]

/-- Bytes that just fill the block leave the block they fill in the buffer. -/
theorem readByte_absorbAll_full {vs : List Byte} (hwf : Memory.wf s.buf = true)
    (hfull : s.fill.toNat + vs.length = 64) (addr : BitVec 6) :
    readByte (absorbAll vs s) addr = streamByte s vs addr.toNat := by
  rw [readByte_absorbAll addr hwf (by omega), streamByte]
  by_cases ha : addr.toNat < s.fill.toNat
  · rw [if_neg (by bv_omega), if_pos ha, BitVec.ofNat_toNat, BitVec.setWidth_eq]
  · have hdist : (addr - s.fill).toNat = addr.toNat - s.fill.toNat := by bv_omega
    rw [hdist, if_pos (by omega), if_neg ha]

/-- Where the bytes of a code point stand after they are absorbed: from `FILL` on, and from 0 on after the block is
full (45_commands.md R268). -/
theorem readByte_absorbAll_wrapped {vs : List Byte} (hwf : Memory.wf s.buf = true) (hlen : vs.length ≤ 64)
    (addr : BitVec 6) :
    readByte (absorbAll vs s) addr =
      if s.fill.toNat ≤ addr.toNat ∧ addr.toNat < s.fill.toNat + vs.length then
        vs.getD (addr.toNat - s.fill.toNat) 0
      else if addr.toNat + 64 < s.fill.toNat + vs.length then vs.getD (addr.toNat + 64 - s.fill.toNat) 0
      else readByte s addr := by
  rw [readByte_absorbAll addr hwf hlen]
  by_cases ha : s.fill.toNat ≤ addr.toNat
  · have hdist : (addr - s.fill).toNat = addr.toNat - s.fill.toNat := by bv_omega
    have hstored : addr.toNat - s.fill.toNat < vs.length ↔
        s.fill.toNat ≤ addr.toNat ∧ addr.toNat < s.fill.toNat + vs.length := by omega
    have hnowrap : ¬ addr.toNat + 64 < s.fill.toNat + vs.length := by omega
    simp only [hdist, hstored, if_neg hnowrap]
  · have hdist : (addr - s.fill).toNat = addr.toNat + 64 - s.fill.toNat := by bv_omega
    have hwrapped : addr.toNat + 64 - s.fill.toNat < vs.length ↔
        addr.toNat + 64 < s.fill.toNat + vs.length := by omega
    have hbefore : ¬ (s.fill.toNat ≤ addr.toNat ∧ addr.toNat < s.fill.toNat + vs.length) := by omega
    simp only [hdist, hwrapped, if_neg hbefore]

end

/-- Zeros and what follows them. -/
theorem getD_replicate_append (n : Nat) (vs : List Byte) (i : Nat) :
    (List.replicate n 0x00#8 ++ vs).getD i 0 = if i < n then 0x00#8 else vs.getD (i - n) 0 := by
  split
  · next h => rw [List.getD_append _ _ _ _ (by simpa using h), List.getD_replicate _ h]
  · next h => rw [List.getD_append_right _ _ _ _ (by simpa using h), List.length_replicate]

/-- Byte `j` of the length field as a number (41_padder.md R122, R125). -/
theorem lengthBytes_lengthField_getD (s : State) {j : Nat} (hj : j < 8) :
    (lengthBytes (lengthField s)).getD j 0 = BitVec.ofNat 8 (8 * s.nbytes.toNat / 256 ^ j) := by
  apply BitVec.eq_of_toNat_eq
  rw [lengthBytes_getD _ hj, BitVec.extractLsb'_toNat, BitVec.toNat_ofNat, lengthField_toNat,
    Nat.shiftRight_eq_div_pow, Nat.pow_mul]

section
variable (s : State)

/-- After the padding `FINAL` only delivers the digest and ends the command (45_commands.md R270). -/
theorem finish_chain :
    chainOf (closeCommand { serialize (pad s) with phase := .done }) = chainOf (pad s) := by
  simp [chainOf]

theorem finish_buf : (closeCommand { serialize (pad s) with phase := .done }).buf = (pad s).buf := by
  rw [closeCommand_buf, serialize_buf]

theorem finish_hex :
    (closeCommand { serialize (pad s) with phase := .done }).hex = digestOf (chainOf (pad s)) := by
  rw [closeCommand_hex, serialize_hex, digestOf, chainOf]

end

/-- The bytes `PAD` absorbs when the length still fits the block (41_padder.md R122, R123). -/
def onlyPadList (s : State) : List Byte :=
  0x80#8 :: List.replicate (55 - s.fill.toNat) 0x00#8 ++ lengthBytes (lengthField s)

/-- The bytes `PAD` absorbs to fill a block that has no room for the length (41_padder.md R123). -/
def firstPadList (s : State) : List Byte := 0x80#8 :: List.replicate (63 - s.fill.toNat) 0x00#8

/-- The bytes `PAD` absorbs into the second block (41_padder.md R123). -/
def secondPadList (s : State) : List Byte := List.replicate 56 0x00#8 ++ lengthBytes (lengthField s)

section
variable {s : State}

theorem pad_eq_onlyPadList (h : s.fill.toNat ≤ 55) : pad s = absorbAll (onlyPadList s) s := by
  have hzeros : zeroCount s.fill.toNat = 55 - s.fill.toNat := by
    rw [zeroCount]
    omega
  rw [pad_eq_absorbAll, hzeros, onlyPadList]

theorem pad_eq_twoPadLists (h : 56 ≤ s.fill.toNat) :
    pad s = absorbAll (secondPadList s) (absorbAll (firstPadList s) s) := by
  have hzeros : zeroCount s.fill.toNat = (63 - s.fill.toNat) + 56 := by
    rw [zeroCount]
    omega
  rw [pad_eq_absorbAll, hzeros, List.replicate_add, ← absorbAll_append, firstPadList, secondPadList,
    ← List.cons_append, List.append_assoc]

theorem fill_add_onlyPadList_length (h : s.fill.toNat ≤ 55) :
    s.fill.toNat + (onlyPadList s).length = 64 := by
  simp only [onlyPadList, lengthBytes, List.length_append, List.length_cons, List.length_replicate, List.length_nil]
  omega

theorem fill_add_firstPadList_length : s.fill.toNat + (firstPadList s).length = 64 := by
  simp only [firstPadList, List.length_cons, List.length_replicate]
  omega

theorem secondPadList_length : (secondPadList s).length = 64 := rfl

/-- The only padding block, byte by byte (41_padder.md R122, R123). -/
theorem streamByte_onlyPadList (h : s.fill.toNat ≤ 55) {j : Nat} (hj : j < 64) :
    streamByte s (onlyPadList s) j = onlyPadByte s j := by
  rw [streamByte, onlyPadByte]
  by_cases hlt : j < s.fill.toNat
  · rw [if_pos hlt, if_pos hlt]
  rw [if_neg hlt, if_neg hlt, onlyPadList, List.cons_append]
  by_cases hmark : j = s.fill.toNat
  · rw [if_pos hmark, hmark, Nat.sub_self, List.getD_cons_zero]
  have hnext : j - s.fill.toNat = j - (s.fill.toNat + 1) + 1 := by omega
  rw [if_neg hmark, hnext, List.getD_cons_succ, getD_replicate_append]
  by_cases hzero : j < 56
  · rw [if_pos hzero, if_pos (by omega)]
  · have hlen : j - (s.fill.toNat + 1) - (55 - s.fill.toNat) = j - 56 := by omega
    rw [if_neg hzero, if_neg (by omega), hlen, lengthBytes_lengthField_getD s (by omega)]

/-- The first of two padding blocks, byte by byte (41_padder.md R123). -/
theorem streamByte_firstPadList {j : Nat} (hj : j < 64) :
    streamByte s (firstPadList s) j = firstPadByte s j := by
  rw [streamByte, firstPadByte]
  by_cases hlt : j < s.fill.toNat
  · rw [if_pos hlt, if_pos hlt]
  rw [if_neg hlt, if_neg hlt, firstPadList]
  by_cases hmark : j = s.fill.toNat
  · rw [if_pos hmark, hmark, Nat.sub_self, List.getD_cons_zero]
  · have hnext : j - s.fill.toNat = j - (s.fill.toNat + 1) + 1 := by omega
    rw [if_neg hmark, hnext, List.getD_cons_succ, List.getD_replicate _ (by omega)]

/-- The second of two padding blocks, byte by byte, is absorbed from `FILL` 0 on (41_padder.md R123). -/
theorem streamByte_secondPadList {u : State} (hu : u.fill = 0) {j : Nat} (hj : j < 64) :
    streamByte u (secondPadList s) j = secondPadByte s j := by
  have hzero : u.fill.toNat = 0 := congrArg BitVec.toNat hu
  rw [streamByte, hzero, if_neg (Nat.not_lt_zero j), Nat.sub_zero, secondPadList, getD_replicate_append,
    secondPadByte]
  split
  · rfl
  · exact lengthBytes_lengthField_getD s (by omega)

variable (hwf : Memory.wf s.buf = true)
include hwf

/-- What `PAD` does when the length still fits the block (45_commands.md R270; 41_padder.md R123). -/
theorem pad_oneBlock (h : s.fill.toNat ≤ 55) :
    chainOf (pad s) = compressionFn (chainOf s) (blockOf (onlyPadByte s)) ∧
      ∀ addr : BitVec 6, readByte (pad s) addr = onlyPadByte s addr.toNat := by
  have hfull := fill_add_onlyPadList_length h
  rw [pad_eq_onlyPadList h]
  refine ⟨?_, fun addr => ?_⟩
  · rw [absorbAll_chain_full hwf (by omega) (by omega), blockOf_congr fun _ => streamByte_onlyPadList h]
  · rw [readByte_absorbAll_full hwf hfull, streamByte_onlyPadList h addr.isLt]

/-- What `PAD` does when the length needs a second block (45_commands.md R270; 41_padder.md R123). -/
theorem pad_twoBlocks (h : 56 ≤ s.fill.toNat) :
    chainOf (pad s) = compressionFn (compressionFn (chainOf s) (blockOf (firstPadByte s)))
        (blockOf (secondPadByte s)) ∧
      ∀ addr : BitVec 6, readByte (pad s) addr = secondPadByte s addr.toNat := by
  have hfull := fill_add_firstPadList_length (s := s)
  have hlen := secondPadList_length (s := s)
  have hwf' := absorbAll_wf (firstPadList s) s hwf
  have hzero : (absorbAll (firstPadList s) s).fill = 0 := by
    rw [absorbAll_fill]
    bv_omega
  have hzero' : (absorbAll (firstPadList s) s).fill.toNat = 0 := congrArg BitVec.toNat hzero
  rw [pad_eq_twoPadLists h]
  refine ⟨?_, fun addr => ?_⟩
  · rw [absorbAll_chain_full hwf' (by omega) (by omega), blockOf_congr fun _ => streamByte_secondPadList hzero,
      absorbAll_chain_full hwf (by omega) (by omega), blockOf_congr fun _ => streamByte_firstPadList]
  · rw [readByte_absorbAll_full hwf' (by omega), streamByte_secondPadList hzero addr.isLt]

end

end Sys2Proof.Machine
end

section
/-! PROOFS of the family 45_commands.md, part 4: the statements settled. -/

namespace Sys2Proof

open Machine Claims

/-- Settles O15: `INIT` opens the empty message, each `PUTC` extends it, and the padding completes its blocks. -/
theorem hashDeliversTheDigestOfAnyText : Obligations.HashDeliversTheDigestOfAnyText := by
  intro s cps msg hp htext hpend
  have hevents : s.pending = .command 0x01000000#32 ::
      ((cps.map fun cp => putcWord cp.toNat).map Event.command ++ [.command 0x03000000#32]) := by
    have hinit : commandEvent .init = some (.command 0x01000000#32) := rfl
    rw [hpend, hashCommands, List.filterMap_append, List.filterMap_cons_some hinit, commandEvents_putc]
    rfl
  have hopen := step_command_init hevents hp rfl
  obtain ⟨t, hrun, habs, hwf, hlast⟩ :=
    after_putcs_hashing (rest := [.command 0x03000000#32]) 1 (openMessage_hashing s _) htext
  have hclose := step_command_final hlast habs.phase_eq rfl
  have hpad : chainOf (pad { t with pending := [] }) = md5State msg :=
    (habs.of_sameArch ((SameArch.refl t).pending [] t.pending)).pad_chain hwf
  have hhex := (finish_hex { t with pending := [] }).trans (congrArg digestOf hpad)
  refine ⟨_, ?_, rfl, ?_, hhex, congrArg some hhex⟩
  · calc after (cps.length + 2) s
      _ = after (cps.length + 1) _ := run_next Sys2Proof.core _ hopen
      _ = after 1 t := hrun
      _ = .next _ := run_next Sys2Proof.core 0 hclose
  · rw [closeCommand_pending, serialize_pending, pad_pending]

/-- Settles O19: of the cases of a step all but `FINAL` in an open message clear `HEX` or keep it. -/
theorem onlyFinalMakesHexNonZero : Obligations.OnlyFinalMakesHexNonZero := by
  intro s t hstep hzero hne
  cases step_cases hstep with
  | idle _ e => exact absurd (e ▸ hzero) hne
  | ignored w rest _ _ e => exact absurd ((congrArg State.hex e).trans hzero) hne
  | illcmd w rest _ _ _ _ e => exact absurd (congrArg State.hex e) hne
  | seq w rest _ _ _ _ _ e => exact absurd (congrArg State.hex e) hne
  | badcp w rest _ _ _ _ _ e => exact absurd (congrArg State.hex e) hne
  | init w rest _ _ _ e => exact absurd (congrArg State.hex e) hne
  | putc w rest cp bs _ _ _ _ e =>
    have hsame : t.hex = s.hex := by simp [e, appendBytes_eq]
    exact absurd (hsame.trans hzero) hne
  | final w rest h hp hd _ =>
    have hw : encode .final = .cmd32 w := encode_of_decodeCommand hd
    exact ⟨hp, rest, Encoding.cmd32.inj hw ▸ h⟩
  | reset rest _ e => exact absurd (congrArg State.hex e) hne
  | micro ev rest _ _ e =>
    obtain ⟨w, i, f, u, r, e⟩ := e
    exact absurd ((congrArg State.hex e).trans hzero) hne

/-- Settles O21: outside `FAULT` the next state is the reset state but for `CAUSE` and what is pending. -/
theorem initOpensAMessage : Obligations.InitOpensAMessage := by
  refine ⟨rfl, fun w hopc => decode_reject_of_operandless (.inl hopc), fun s hp => ?_,
    fun s hp => execInit_fault hp, fun s hi hp => ?_⟩
  · have hword : ∀ k, readWord (openMessage s) k = 0x00000000#32 := readWord_reset
    exact ⟨_, execInit_open hp, rfl, rfl, hword, rfl, rfl, rfl, rfl, rfl, rfl⟩
  · have hopen : s.phase ≠ .fault := by simp [hp]
    exact ⟨_, execInit_open hopen, openMessage_sameArch (hi.cause_none hopen)⟩

/-- Settles O22: the code point's bytes are absorbed, which fills the block at most once, and counted. -/
theorem putcAppendsItsBytes : Obligations.PutcAppendsItsBytes := by
  refine ⟨fun cp => decode_encode (.putc cp), fun w hopc => decode_reject_of_putc hopc,
    fun s cp hwf hp hscalar => ?_, fun s cp hp hscalar => execPutc_bad hp (utf8Bytes_eq_none_of_not_isScalar hscalar),
    fun s cp hp => execPutc_done cp hp, fun s cp hp => execPutc_fault cp hp⟩
  obtain ⟨bs, hbs⟩ := exists_utf8Bytes_of_isScalar hscalar
  have hlen := (utf8Bytes_length hbs).2
  have harch := closeCommand_sameArch (appendBytes bs (latchBytes bs s))
  rw [appendBytes_eq] at harch
  refine ⟨_, bs, hbs, execPutc_legal hp hbs, ?_⟩
  rw [appendBytes_eq]
  refine ⟨?_, ?_, ?_, ?_, ?_, ?_, ?_, ?_⟩
  · simp [hp]
  · simp
  · simp
  · simp
  · rw [closeCommand_nbytes, latchBytes_nbytes, BitVec.toNat_add, BitVec.toNat_ofNat, Nat.add_mod_mod]
  · rw [closeCommand_fill, absorbAll_fill, latchBytes_fill, BitVec.toNat_add, BitVec.toNat_ofNat, Nat.add_mod_mod]
  · rw [harch.chainOf_eq]
    split
    · next hlt => exact absorbAll_chain (s := latchBytes bs s) hlt
    · next hge =>
      have hfill := s.fill.isLt
      exact absorbAll_chain_full (s := latchBytes bs s) hwf (Nat.le_of_not_lt hge)
        (by rw [latchBytes_fill]; omega)
  · exact fun addr => readByte_absorbAll_wrapped (s := latchBytes bs s) hwf (by omega) addr

/-- Settles O23: the padding fills one block or two, and `HEX` is the digest of the chaining registers it leaves. -/
theorem finalClosesTheMessage : Obligations.FinalClosesTheMessage := by
  refine ⟨rfl, fun w hopc => decode_reject_of_operandless (.inr hopc), fun s hwf hp => ?_,
    fun s hp => execFinal_done hp, fun s hp => execFinal_fault hp⟩
  refine ⟨_, execFinal_absorb hp, ?_⟩
  simp only [finish_chain, readByte_congr (finish_buf s)]
  refine ⟨rfl, ?_, ?_, ?_, ?_, finish_hex s, pad_oneBlock hwf, pad_twoBlocks hwf⟩
  · rw [closeCommand_cause, serialize_cause, pad_cause]
  · rw [closeCommand_pending, serialize_pending, pad_pending]
  · rw [closeCommand_nbytes, serialize_nbytes, pad_nbytes]
  · rw [closeCommand_fill, serialize_fill, pad_fill]

/-- Settles O28: the entry of each event and phase is the phase its step ends in. -/
theorem phaseTransitionsAreComplete : Obligations.PhaseTransitionsAreComplete := by
  intro s t e rest h ht
  have hnext : ∀ {u : State}, step s = .next u → t = u := fun hu => Host.Outcome.next.inj (ht.symm.trans hu)
  refine ⟨?_, ?_, ?_, ?_, ?_, ?_, ?_, ?_, ?_, ?_⟩
  · rintro rfl
    rw [hnext (step_cons h), resetCore_phase]
  · rintro w rfl hp
    rw [hnext (step_command_fault h hp), hp]
  · rintro w rfl hp hd
    rw [hnext (step_command_init h hp hd), openMessage_phase]
  · rintro w cp rfl hp hd hscalar
    obtain ⟨bs, hbs⟩ := exists_utf8Bytes_of_isScalar hscalar
    rw [hnext (step_command_putc h hp hd hbs), appendBytes_eq]
    simp [hp]
  · rintro w cp rfl hp hd hscalar
    rw [hnext (step_command_badcp h hp hd (utf8Bytes_eq_none_of_not_isScalar hscalar))]
    exact ⟨rfl, rfl⟩
  · rintro w cp rfl hp hd
    rw [hnext (step_command_seq h hp hd (.inr ⟨cp, rfl⟩))]
    exact ⟨rfl, rfl⟩
  · rintro w rfl hp hd
    rw [hnext (step_command_final h hp hd), closeCommand_phase]
  · rintro w rfl hp hd
    rw [hnext (step_command_seq h hp hd (.inl rfl))]
    exact ⟨rfl, rfl⟩
  · rintro w why rfl hp hd
    rw [hnext (step_command_reject h hp hd)]
    exact ⟨rfl, rfl⟩
  · exact fun hm => (executeEvent_micro_phase hm ((step_cons h).symm.trans ht) :)

/-- Settles O1, word by word. -/
theorem specWordsDecode : Obligations.SpecWordsDecode :=
  ⟨rfl, rfl, rfl, rfl, rfl, rfl, rfl, rfl, rfl, rfl, rfl, rfl⟩

/-- Settles O6, check by check. -/
theorem stepExecutesTheCommandWord : Obligations.StepExecutesTheCommandWord := by
  refine fun s w rest h => ⟨step_command_fault h, fun hp => ⟨fun why => step_command_reject h hp,
    fun i => step_command_instr h hp, fun i hd hi hdone => step_command_seq h hdone hd hi, ?_⟩⟩
  exact fun cp hd habs hscalar => step_command_badcp h habs hd (utf8Bytes_eq_none_of_not_isScalar hscalar)

/-- Settles O24: both states agree with the reset state, as no cause stands outside `FAULT`. -/
theorem initForgetsTheOpenMessage : Obligations.InitForgetsTheOpenMessage := by
  intro s s' hi hi' hp hp'
  exact ⟨_, _, execInit_open hp, execInit_open hp',
    (openMessage_sameArch (hi.cause_none hp)).trans (openMessage_sameArch (hi'.cause_none hp')).symm⟩

end Sys2Proof
end

section
/-! PROOFS of the family 60_exceptions.md, part 1: the fault a command word raises, against the table of causes, and
that no instruction and no event stops the machine. -/

open Sys2Proof.Claims

namespace Sys2Proof.Machine

theorem readHex_of_noDigest {s : State} (h : s.hex = noDigest) (j : Fin 32) : readHex s j = 0x00#8 := by
  rw [readHex, h]
  exact Vector.getElem_replicate j.isLt

section
variable {w : BitVec 32}

theorem undecodable_iff : Undecodable w ↔ ∃ why, decode (.cmd32 w) = .reject why := by
  constructor
  · rintro (hopc | hrsv | hcp)
    · exact ⟨.reservedOpcode, decodeCommand_eq_iff.mpr hopc⟩
    · exact ⟨.reservedField, decodeCommand_eq_iff.mpr hrsv⟩
    · exact ⟨.operandNotZero, decodeCommand_eq_iff.mpr hcp⟩
  · rintro ⟨why, hd⟩
    have hclass := decodeCommand_eq_iff.mp hd
    cases why with
    | reservedOpcode => exact .inl hclass
    | reservedField => exact .inr (.inl hclass)
    | operandNotZero => exact .inr (.inr hclass)

/-- The operand of a `PUTC` word is its field (30_encoding.md R74). -/
theorem decode_putc_of_opc (hu : ¬ Undecodable w) (hopc : opc w = 2) :
    decode (.cmd32 w) = .instr (.putc (BitVec.ofNat 21 (cpField w))) := by
  have hrsv : rsv w = 0 := not_not.mp fun hrsv => hu (.inr (.inl ⟨by omega, hrsv⟩))
  have hcp : (BitVec.ofNat 21 (cpField w)).toNat = cpField w := Nat.mod_eq_of_lt (cpField_lt w)
  exact decodeCommand_eq_iff.mpr ⟨hopc, hrsv, hcp⟩

theorem decode_final_of_opc (hu : ¬ Undecodable w) (hopc : opc w = 3) : decode (.cmd32 w) = .instr .final := by
  have hrsv : rsv w = 0 := not_not.mp fun hrsv => hu (.inr (.inl ⟨by omega, hrsv⟩))
  have hcp : cpField w = 0 := not_not.mp fun hcp => hu (.inr (.inr ⟨.inr hopc, hrsv, hcp⟩))
  exact decodeCommand_eq_iff.mpr ⟨hopc, hrsv, hcp⟩

end

/-- The condition under which a command word outside `FAULT` raises a cause, as the table gives it
(60_exceptions.md R291). -/
def FaultCondition (s : State) (w : BitVec 32) : Cause → Prop
  | .none => False
  | .illcmd => Undecodable w
  | .seq => (opc w = 2 ∨ opc w = 3) ∧ s.phase = .done
  | .badcp => opc w = 2 ∧ ¬ IsScalar (BitVec.ofNat 21 (cpField w))

section
variable {s t : State} {w : BitVec 32} {rest : List Event} (h : s.pending = .command w :: rest)
include h

/-- A closed message refuses the words that extend or close it (60_exceptions.md R291). -/
theorem step_afterDone (hu : ¬ Undecodable w) (hseq : (opc w = 2 ∨ opc w = 3) ∧ s.phase = .done) :
    step s = .next (raise .seq { s with pending := rest }) := by
  obtain ⟨hopc | hopc, hdone⟩ := hseq
  · exact step_command_seq h hdone (decode_putc_of_opc hu hopc) (.inr ⟨_, rfl⟩)
  · exact step_command_seq h hdone (decode_final_of_opc hu hopc) (.inl rfl)

variable (hp : s.phase ≠ .fault)
include hp

theorem step_undecodable (hu : Undecodable w) : step s = .next (raise .illcmd { s with pending := rest }) := by
  obtain ⟨why, hd⟩ := undecodable_iff.mp hu
  exact step_command_reject h hp hd

theorem step_badOperand (hu : ¬ Undecodable w) (hopen : s.phase ≠ .done)
    (hbad : opc w = 2 ∧ ¬ IsScalar (BitVec.ofNat 21 (cpField w))) :
    step s = .next (raise .badcp { s with pending := rest }) := by
  obtain ⟨hopc, hscalar⟩ := hbad
  have habs : s.phase = .absorb := by
    cases hs : s.phase with
    | absorb => rfl
    | done => exact absurd hs hopen
    | fault => exact absurd hs hp
  exact step_command_badcp h habs (decode_putc_of_opc hu hopc) (utf8Bytes_eq_none_of_not_isScalar hscalar)

/-- A command word either raises a fault whose condition holds, on the state it found, or leaves `CAUSE` and a
phase other than `FAULT` (60_exceptions.md R291, R293). -/
theorem step_command_outcome (ht : step s = .next t) :
    (∃ c, FaultCondition s w c ∧ t = raise c { s with pending := rest }) ∨
      (t.phase ≠ .fault ∧ t.cause = s.cause) := by
  cases step_cases ht with
  | idle hnil _ => cases hnil.symm.trans h
  | ignored _ _ _ hf _ => exact absurd hf hp
  | illcmd _ _ why hv _ hd e =>
    cases hv.symm.trans h
    exact .inl ⟨.illcmd, undecodable_iff.mpr ⟨why, hd⟩, e⟩
  | seq _ _ i hv hdone hd hi e =>
    cases hv.symm.trans h
    have hopc : opc w = 2 ∨ opc w = 3 := by
      obtain rfl | ⟨cp, rfl⟩ := hi
      · obtain ⟨hopc, -⟩ := decodeCommand_eq_iff.mp hd
        exact .inr hopc
      · obtain ⟨hopc, -⟩ := decodeCommand_eq_iff.mp hd
        exact .inl hopc
    exact .inl ⟨.seq, ⟨hopc, hdone⟩, e⟩
  | badcp _ _ cp hv _ hd hb e =>
    cases hv.symm.trans h
    obtain ⟨hopc, -, hcp⟩ := decodeCommand_eq_iff.mp hd
    have hscalar : ¬ IsScalar cp := by simp [← utf8Bytes_isSome_iff, hb]
    exact .inl ⟨.badcp, ⟨hopc, by rwa [← hcp, BitVec.ofNat_toNat, BitVec.setWidth_eq]⟩, e⟩
  | init _ _ _ _ _ e =>
    rw [e]
    exact .inr ⟨by simp, openMessage_cause _⟩
  | putc _ _ _ _ _ habs _ _ e =>
    rw [e, appendBytes_eq]
    exact .inr ⟨by simp [habs], by simp⟩
  | final _ _ _ _ _ e =>
    rw [e]
    exact .inr ⟨by simp, by simp⟩
  | reset _ hv _ => cases hv.symm.trans h
  | micro _ _ hv hm _ =>
    cases hv.symm.trans h
    simp at hm

/-- A command word that takes the machine into `FAULT` has done nothing but raise its cause
(60_exceptions.md R293). -/
theorem step_command_raised (ht : step s = .next t) (hf : t.phase = .fault) :
    t.cause ≠ .none ∧ t = raise t.cause { s with pending := rest } := by
  obtain ⟨c, hc, rfl⟩ | ⟨hopen, -⟩ := step_command_outcome h hp ht
  · refine ⟨?_, rfl⟩
    rintro rfl
    exact hc
  · exact absurd hf hopen

end

/-- Of two outcomes that are alike, the first is a next state. -/
theorem Alike.exists_next {o o' : Host.Outcome State Fault Refusal} (h : Alike o o') : ∃ t, o = .next t := by
  obtain ⟨t, -, ht, -⟩ := h
  exact ⟨t, ht⟩

/-- Every instruction has a next state; a fault of a command is one too (log entry 11). -/
theorem exec_next (i : Instr) (s : State) : ∃ t, exec i s = .next t := by
  have hself := SameArch.refl s
  by_cases hm : IsMicro i
  · exact (exec_micro_alike hself rfl hm hm).exists_next
  · have hcommand : i = .init ∨ (∃ cp, i = .putc cp) ∨ i = .final := by
      simpa only [IsMicro, not_and_or, not_forall, ne_eq, not_not] using hm
    obtain rfl | ⟨cp, rfl⟩ | rfl := hcommand
    · exact (execInit_alike hself rfl).exists_next
    · exact (execPutc_alike hself rfl cp).exists_next
    · exact (execFinal_alike hself rfl).exists_next

/-- In `FAULT` no step but a `RESET` writes the phase or the cause (60_exceptions.md R294). -/
theorem step_fault_stays {s t : State} (hp : s.phase = .fault) (ht : step s = .next t)
    (hreset : ∀ rest, s.pending ≠ .reset :: rest) : t.phase = .fault ∧ t.cause = s.cause := by
  cases step_cases ht with
  | idle _ e =>
    rw [e]
    exact ⟨hp, rfl⟩
  | ignored _ _ _ _ e =>
    rw [e]
    exact ⟨hp, rfl⟩
  | illcmd _ _ _ _ hopen => exact absurd hp hopen
  | seq _ _ _ _ hdone => cases hp.symm.trans hdone
  | badcp _ _ _ _ habs => cases hp.symm.trans habs
  | init _ _ _ hopen => exact absurd hp hopen
  | putc _ _ _ _ _ habs => cases hp.symm.trans habs
  | final _ _ _ habs => cases hp.symm.trans habs
  | reset rest h => exact absurd h (hreset rest)
  | micro _ _ _ _ e =>
    obtain ⟨w, i, f, u, r, e⟩ := e
    rw [e]
    exact ⟨hp, rfl⟩

end Sys2Proof.Machine
end

section
/-! PROOFS of the family 60_exceptions.md, part 2: the statements settled. -/

namespace Sys2Proof

open Machine Claims

/-- Settles O9: a step from a state is alike to itself, so it is a next state, and so is every instruction. -/
theorem everyStepAnswersANextState : Obligations.EveryStepAnswersANextState :=
  ⟨fun s => (step_alike (SameArch.refl s) rfl).exists_next, exec_next⟩

/-- Settles O25: a command word that faults is a `raise`, whose writes the first half lists. -/
theorem raiseWritesPhaseCauseAndHex : Obligations.RaiseWritesPhaseCauseAndHex := by
  refine ⟨fun c s => ⟨rfl, rfl, readHex_of_noDigest rfl, rfl, rfl, rfl, rfl, rfl⟩, fun s t w rest h hp ht hf => ?_⟩
  obtain ⟨hcause, e⟩ := step_command_raised h hp ht hf
  refine ⟨hcause, ?_⟩
  rw [e]
  exact ⟨readHex_of_noDigest rfl, rfl, rfl, rfl, rfl, rfl⟩

/-- Settles O26, event by event. -/
theorem faultIsStickyUntilReset : Obligations.FaultIsStickyUntilReset := fun _ hp =>
  ⟨fun _ _ h => step_command_fault h hp, fun _ => step_fault_stays hp, fun _ h => ⟨_, step_cons h, rfl, rfl⟩⟩

/-- Settles O27: each condition, the earlier ones excluded, raises its own cause; with none of them nothing is
raised. -/
theorem causeIsTheFirstConditionMet : Obligations.CauseIsTheFirstConditionMet := by
  intro s t w rest h hp ht
  have raised : ∀ {c : Cause}, step s = .next (raise c { s with pending := rest }) →
      t.phase = .fault ∧ t.cause = c := fun hc => by
    rw [Host.Outcome.next.inj (ht.symm.trans hc)]
    exact ⟨rfl, rfl⟩
  refine ⟨fun hu => raised (step_undecodable h hp hu), fun hu hseq => raised (step_afterDone h hu hseq),
    fun hu hseq hbad => raised (step_badOperand h hp hu (fun hdone => hseq ⟨.inl hbad.1, hdone⟩) hbad),
    fun hu hseq hbad => ?_, fun hf => (step_command_raised h hp ht hf).2, fun hi => hi.cause_none hp⟩
  obtain ⟨c, hc, -⟩ | hkept := step_command_outcome h hp ht
  · cases c with
    | none => exact hc.elim
    | illcmd => exact absurd hc hu
    | seq => exact absurd hc hseq
    | badcp => exact absurd hc hbad
  · exact hkept

/-- Settles O58: a command word that faults is a `raise`, which writes three fields. -/
theorem faultsLeaveEveryOtherField : Obligations.FaultsLeaveEveryOtherField :=
  ⟨fun _ _ => rfl, fun _ _ _ _ h hp ht hf => (step_command_raised h hp ht hf).2⟩

/-- Settles O57: `RESET` and `INIT` both open a message, which takes every other field from the reset state. -/
theorem nothingSurvivesResetOrInit : Obligations.NothingSurvivesResetOrInit :=
  ⟨fun _ _ h => step_cons h, fun _ hp => execInit_open hp⟩

end Sys2Proof
end

section
/-! PROOFS of the family 70_reset_and_hazards.md. -/

namespace Sys2Proof

open Machine Claims

/-- Settles O11: `RESET` writes every register in every phase, and any other step taken in `FAULT` stays there. -/
theorem resetActsInEveryPhase : Obligations.ResetActsInEveryPhase := by
  constructor
  · intro s rest h
    have hword : ∀ k, readWord (resetCore { s with pending := rest }) k = 0x00000000#32 := readWord_reset
    exact ⟨_, step_cons h, rfl, rfl, hword, rfl, rfl, rfl, rfl, readHex_of_noDigest rfl, resetCore_sameArch _, rfl⟩
  · intro s t ht hp hleft
    by_contra hreset
    obtain ⟨hstay, -⟩ := step_fault_stays hp ht (not_exists.mp hreset)
    exact hleft hstay

end Sys2Proof
end
